-- ==== Sys2Proof/Word.lean ====
section
/-! DEFINITION. The words of the block: bytes, 16-bit words, addresses (00_scope.md R11, R19), and the sparse
tables in which memories and register files are held. -/

namespace Sys2Proof

/-- One byte: the data of RD8, WR8 and of the AUX port (R11, R140, R141). -/
abbrev Byte := BitVec 8

/-- One 16-bit word: the data of RD16 and WR16, a VDP port word (R11, R140). -/
abbrev Half := BitVec 16

/-- A main-bus byte address (R100): 24 bits, arithmetic modulo 2^24 (R19). -/
abbrev Addr := BitVec 24

/-- An AUX-port byte address (R101): 16 bits. -/
abbrev AuxAddr := BitVec 16

/-- A memory or register file as data: the entries that differ from what an unlisted index reads as, by rising index.
The operations and the canonical form are in Machine/Memory.lean. -/
abbrev Sparse (α : Type) := List (Nat × α)

/-- A byte memory: a list of `Host.Cell`. -/
abbrev Mem := Sparse Byte

end Sys2Proof
end

