-- ==== Sys2Proof/Syntax.lean ====
section
/-! DEFINITION. The operations of the block (00_scope.md R6: an instruction is an operation): one constructor of
`Instr` per row of spec/opcode_table.json, and the data they carry. -/

namespace Sys2Proof

/-- The two scheduled devices (R11). -/
inductive Device where
  | main
  | aux
  deriving DecidableEq, Repr

/-- The two video standards (R11). -/
inductive Std where
  | ntsc
  | pal
  deriving DecidableEq, Repr

/-- The masters of the main bus (R140). -/
inductive Master where
  | main
  | auxwin
  | dma
  deriving DecidableEq, Repr

/-- Who issues a main-bus transaction and with which cycle stamp (R140, R284). -/
structure Ctx where
  master : Master
  stamp : Nat
  deriving DecidableEq, Repr

/-- The direction of an access to an I/O register (R151 gives one row for both). -/
inductive Access where
  | read
  | write (v : Byte)
  deriving DecidableEq, Repr

/-- A write of the host thread to its mailbox (R40, R486). -/
inductive HostSet where
  | pad (w : BitVec 32)
  | mute (b : Bool)
  | cancel (b : Bool)
  | pal (b : Bool)
  deriving DecidableEq, Repr

/-- An operation an engine can issue inside `Execute` (R284): main-bus transactions and `IntAck` are MAIN's,
AUX-port transactions are AUX's. -/
inductive EngOp where
  | rd8 (a : Addr)
  | rd16 (a : Addr)
  | wr8 (a : Addr) (v : Byte)
  | wr16 (a : Addr) (v : Half)
  | ack (level : BitVec 3)
  | ard8 (a : AuxAddr)
  | awr8 (a : AuxAddr) (v : Byte)
  deriving DecidableEq, Repr

/-- What happens inside an `Execute` call: the engine issues an operation with a stamp, the MAIN engine reads the
interrupt level (R284), or the host thread writes its mailbox between two transactions (R470). -/
inductive Event where
  | op (stamp : Nat) (o : EngOp)
  | look
  | host (h : HostSet)
  deriving DecidableEq, Repr

/-- The response of an operation (30_encoding.md R140 to R143, R190): what a read returns, an acknowledge's vector, the
interrupt level an engine reads (R284), an engine's count, a frame's hand-off (R264, R488), LOAD's and PATCH's results
(R472, R482). -/
inductive Resp where
  | none
  | byte (v : Byte)
  | word (v : Half)
  | vector (v : Byte)
  | level (n : Nat)
  | consumed (c : Nat)
  | cancelled
  | done (fb palsnap : Mem) (pcm : List (List Int))
  | pcm (pcm : List (List Int))
  | loadOk
  | loadFail
  | skipped (n : Nat)
  deriving DecidableEq, Repr

/-- One recorded `Execute` call seen from the block (R142, R284): what happens, in order, and the count returned. -/
structure EngCall where
  events : List Event
  consumed : Nat
  deriving DecidableEq, Repr

/-- A byte string as LOAD takes it (R472): its length, and its bytes at indices below it (an unlisted byte is 0). -/
structure Image where
  len : Nat
  bytes : Mem
  deriving DecidableEq, Repr

/-- The fields of a 32-bit VDP command word, high to low (R157): `c` is code[1:0], `a` is addr[13:0], `cc` is
code[5:2], `aa` is addr[15:14]; `x` and `y` are the ignored bits 15:8 and 3:2. -/
structure CmdWord where
  c : BitVec 2
  a : BitVec 14
  x : BitVec 8
  cc : BitVec 4
  y : BitVec 2
  aa : BitVec 2
  deriving DecidableEq, Repr

/-- The operations. The comment over a group names its format (30_encoding.md section 1 to 5). -/
inductive Instr where
  -- BUS (R140)
  | rd8 (x : Ctx) (a : Addr)
  | rd16 (x : Ctx) (a : Addr)
  | wr8 (x : Ctx) (a : Addr) (v : Byte)
  | wr16 (x : Ctx) (a : Addr) (v : Half)
  -- BUS.REGION (R148)
  | rd8Sram (x : Ctx) (a : Addr)
  | wr8Sram (x : Ctx) (a : Addr) (v : Byte)
  | rd8Rom (x : Ctx) (a : Addr)
  | wr8Rom (x : Ctx) (a : Addr) (v : Byte)
  | rd8Cartopen (x : Ctx) (a : Addr)
  | wr8Cartopen (x : Ctx) (a : Addr) (v : Byte)
  | rd8Zram (x : Ctx) (a : Addr)
  | wr8Zram (x : Ctx) (a : Addr) (v : Byte)
  | rd8Fm (x : Ctx) (a : Addr)
  | wr8Fm (x : Ctx) (a : Addr) (v : Byte)
  | rd8Banksel (x : Ctx) (a : Addr)
  | wr8Banksel (x : Ctx) (a : Addr) (v : Byte)
  | rd8Io (x : Ctx) (a : Addr)
  | wr8Io (x : Ctx) (a : Addr) (v : Byte)
  | rd8Sramctl (x : Ctx) (a : Addr)
  | wr8Sramctl (x : Ctx) (a : Addr) (v : Byte)
  | rd8Vdp (x : Ctx) (a : Addr)
  | wr8Vdp (x : Ctx) (a : Addr) (v : Byte)
  | rd8Ram (x : Ctx) (a : Addr)
  | wr8Ram (x : Ctx) (a : Addr) (v : Byte)
  | rd8Open (x : Ctx) (a : Addr)
  | wr8Open (x : Ctx) (a : Addr) (v : Byte)
  -- BUS.VDP (R149)
  | rd16Vdpdata (x : Ctx) (a : Addr)
  | wr16Vdpdata (x : Ctx) (a : Addr) (v : Half)
  | rd16Vdpctrl (x : Ctx) (a : Addr)
  | wr16Vdpctrl (x : Ctx) (a : Addr) (v : Half)
  | rd8Vdpdata (x : Ctx) (a : Addr)
  | wr8Vdpdata (x : Ctx) (a : Addr) (v : Byte)
  | rd8Vdpctrl (x : Ctx) (a : Addr)
  | wr8Vdpctrl (x : Ctx) (a : Addr) (v : Byte)
  | rd8Psg (x : Ctx) (a : Addr)
  | wr8Psg (x : Ctx) (a : Addr) (v : Byte)
  | rd8Vdpnone (x : Ctx) (a : Addr)
  | wr8Vdpnone (x : Ctx) (a : Addr) (v : Byte)
  -- BUS.FM (R150)
  | wr8FmAddr0 (x : Ctx) (a : Addr) (v : Byte)
  | wr8FmData0 (x : Ctx) (a : Addr) (v : Byte)
  | wr8FmAddr1 (x : Ctx) (a : Addr) (v : Byte)
  | wr8FmData1 (x : Ctx) (a : Addr) (v : Byte)
  | rd8FmAny (x : Ctx) (a : Addr)
  -- FMREG (R162)
  | fmregMode (x : Ctx) (v : Byte)
  | fmregDacdata (x : Ctx) (v : Byte)
  | fmregDacen (x : Ctx) (v : Byte)
  | fmregTaHi (x : Ctx) (v : Byte)
  | fmregTaLo (x : Ctx) (v : Byte)
  | fmregTb (x : Ctx) (v : Byte)
  | fmregOther (x : Ctx) (bank : BitVec 1) (r : Byte) (v : Byte)
  -- FMVAL, PSGVAL (R162, R163)
  | modeValue (x : Ctx) (v : Byte)
  | dacenValue (x : Ctx) (v : Byte)
  | dacdataValue (x : Ctx) (v : Byte)
  | psgValue (x : Ctx) (v : Byte)
  -- BUS.IO (R151)
  | ioVersion (k : Access)
  | ioData0 (k : Access)
  | ioData1 (k : Access)
  | ioData2 (k : Access)
  | ioCtrl0 (k : Access)
  | ioCtrl1 (k : Access)
  | ioCtrl2 (k : Access)
  | ioSer0 (k : Access)
  | ioSer1 (k : Access)
  | ioSer2 (k : Access)
  | ioSer3 (k : Access)
  | ioSer4 (k : Access)
  | ioSer5 (k : Access)
  | ioSer6 (k : Access)
  | ioSer7 (k : Access)
  | ioSer8 (k : Access)
  | ioEven (a : Addr) (k : Access)
  -- CTLVAL (R153, R154)
  | sramctlValue (v : Byte)
  | bankselValue (v : Byte)
  -- VDPCTRL16 (R156); `z` is the ignored bit 13 of REGSET
  | regset (z : BitVec 1) (r : BitVec 5) (d : Byte)
  | cmd1 (c : BitVec 2) (a : BitVec 14)
  | cmd2 (x : BitVec 8) (cc : BitVec 4) (y : BitVec 2) (aa : BitVec 2)
  -- CMD32 (R157, R158)
  | command (w : CmdWord)
  | modeVramRd (w : CmdWord)
  | modeVramWr (w : CmdWord)
  | modeCramWr (w : CmdWord)
  | modeVsramRd (w : CmdWord)
  | modeVsramWr (w : CmdWord)
  | modeCramRd (w : CmdWord)
  | modeInvalid (w : CmdWord)
  | dmaflag (w : CmdWord)
  -- VR23, VDPINT (R159, R350); `hi` is VR[23][6:0], `z` the bits of VR[23] the mode does not read
  | dmaBus (hi : BitVec 7)
  | dmaFill (z : BitVec 6) (b : Byte)
  | dmaCopy (z : BitVec 6)
  | dmastart
  -- VDPPORT (R332, R334, R338)
  | vdataWr (d : Half)
  | vdataRd
  | vstat
  -- AUX (R141, R166)
  | ardZram (a : AuxAddr) (t : Nat)
  | awrZram (a : AuxAddr) (v : Byte) (t : Nat)
  | ardFm (a : AuxAddr) (t : Nat)
  | awrFm (a : AuxAddr) (v : Byte) (t : Nat)
  | ardBanksel (a : AuxAddr) (t : Nat)
  | awrBanksel (a : AuxAddr) (v : Byte) (t : Nat)
  | ardVdpwin (a : AuxAddr) (t : Nat)
  | awrVdpwin (a : AuxAddr) (v : Byte) (t : Nat)
  | ardBankwin (a : AuxAddr) (t : Nat)
  | awrBankwin (a : AuxAddr) (v : Byte) (t : Nat)
  | ardNone (a : AuxAddr) (t : Nat)
  | awrNone (a : AuxAddr) (v : Byte) (t : Nat)
  -- ENGINE (R142), ACK (R143)
  | execute (d : Device) (budget : Nat)
  | ackV
  | ackH
  | ackSpurious (level : BitVec 3)
  -- SCHED (R144)
  | runframe
  | framestart
  | linestep
  | padtimeout
  | padsample
  | timerstep
  | hstep
  | slices
  | snapshot
  | vblankboundary
  | runto (d : Device) (target : Nat)
  | frameend
  -- VDPCALL (R146)
  | drawline (n : Int)
  | timertick
  | finalize
  | soundframestart
  | timerrebase (frameUs : Nat)
  -- HOST (R145)
  | hostLoad (image : Image)
  | hostUnplug
  | hostPatch (codes : List (Addr × Half))
  | hostReset
  | hostSetpad (w : BitVec 32)
  | hostSetmute (b : Bool)
  | hostSetcancel (b : Bool)
  | hostSetpal (b : Bool)
  deriving DecidableEq, Repr

end Sys2Proof
end

