-- ==== Sys2Proof/Config.lean ====
section
/-! DEFINITION. The configuration record of the block (00_scope.md R10 to R18), its two instances, and the free
values: the external engines, the external synthesizer, the mailbox samples, the functions that a configuration may
give in place of a reference definition, and the values no rule states. -/

namespace Sys2Proof

/-- One value per video standard (R12). -/
structure PerStd (α : Type) where
  ntsc : α
  pal : α
  deriving DecidableEq, Repr

/-- One value per scheduled device (R12, R33). -/
structure PerDev (α : Type) where
  main : α
  aux : α
  deriving DecidableEq, Repr

/-- A match/mask window of the address map (R13): `a` is inside when `(a & mask) = base`. -/
structure Win where
  base : Addr
  mask : Addr
  deriving DecidableEq, Repr

/-- The configuration of one instance: every number the document leaves to configuration (R10, R12 to R16). A run
never changes it. It is plain data, and State holds it, so a statement about every state is a statement about every
configuration. Three parameters are functions: `none` is the definition the spec gives for both its instances (R512,
R436, R520 to R532); another width of a line is its value for each VR[12], and another period or another set of layer
functions is free value number `k` (log 26). -/
structure Cfg where
  -- R12
  linesTotal : PerStd Nat
  activeStart : PerStd Nat
  vblankStart : PerStd Nat
  bottomStart : PerStd Nat
  cpl : PerDev (PerStd Nat)
  hbl : PerDev (PerStd Nat)
  clockHz : PerDev (PerStd Nat)
  snapshotLine : Nat
  padTimeoutLines : Nat
  -- R13
  cartEnd : Nat
  ramSize : Nat
  ramWin : Win
  zramSize : Nat
  zramWin : Win
  fmWin : Win
  bankWin : Win
  ioWin : Win
  sramctlAddr : Addr
  vdpWin : Win
  minImageSize : Nat
  stubRom : List Byte
  -- R14
  vramSize : Nat
  cramN : Nat
  vsramN : Nat
  satMax : Nat
  bpp : Nat
  lineW : Option (List Nat)
  layers : Option Nat
  -- R15
  regMode : Byte
  regDacdata : Byte
  regDacen : Byte
  dacBufLen : Nat
  nOut : PerStd Nat
  pcmCh : Nat
  dacShift : Nat
  timerAckLevel : Bool
  timerPeriod : Option Nat
  -- R16
  hintLevel : Nat
  vintLevel : Nat
  nPads : Nat
  sixButton : List Bool
  padUntouched : BitVec 32
  regionOverseas : Bool
  deriving DecidableEq, Repr

/-- The entry of a per-standard parameter. -/
def PerStd.get {α : Type} (p : PerStd α) : Std → α
  | .ntsc => p.ntsc
  | .pal => p.pal

/-- The entry of a per-device value. -/
def PerDev.get {α : Type} (p : PerDev α) : Device → α
  | .main => p.main
  | .aux => p.aux

/-- A per-device value with one entry replaced. -/
def PerDev.set {α : Type} (p : PerDev α) (d : Device) (v : α) : PerDev α :=
  match d with
  | .main => { p with main := v }
  | .aux => { p with aux := v }

/-- The frame buffer's line width in pixels (R38). -/
def Cfg.fbW : Nat := 320

/-- The cap on the sprite-order traversal, fixed by the document (R11, R14). -/
def Cfg.spriteCap : Nat := 256

/-- The number of picture lines (R38). -/
def Cfg.fbLines (c : Cfg) (s : Std) : Nat := c.vblankStart.get s - c.activeStart.get s

/-- The windows of the map above the cartridge window (R13). -/
def Cfg.windows (c : Cfg) : List Win :=
  [c.ramWin, c.zramWin, c.fmWin, c.bankWin, c.ioWin, ⟨c.sramctlAddr, 0xFFFFFF⟩, c.vdpWin]

/-- A number with exactly one bit set (R18: RAM sizes are powers of two). -/
def isPow2 (n : Nat) : Bool := n ≠ 0 && n &&& (n - 1) = 0

/-- A match/mask window without an address: its match asks for a bit outside its mask. -/
def Win.empty (w : Win) : Bool := w.base &&& w.mask ≠ w.base

/-- Two match/mask windows share no address: one is empty, or they disagree on a bit both decode. -/
def Win.apart (v w : Win) : Bool := v.empty || w.empty || (v.base ^^^ w.base) &&& v.mask &&& w.mask ≠ 0

/-- Every two windows of a list share no address. -/
def Win.allApart : List Win → Bool
  | [] => true
  | w :: ws => ws.all (Win.apart w) && Win.allApart ws

/-- The scheduling part of R18 for one standard. -/
def Cfg.stdWf (c : Cfg) (s : Std) : Bool :=
  c.activeStart.get s < c.vblankStart.get s && c.vblankStart.get s < c.bottomStart.get s
    && c.bottomStart.get s ≤ c.linesTotal.get s && c.snapshotLine < c.linesTotal.get s
    && (c.hbl.main.get s ≤ c.cpl.main.get s && c.hbl.aux.get s ≤ c.cpl.aux.get s)
    && (1 ≤ c.cpl.main.get s && 1 ≤ c.cpl.aux.get s)
    && (1 ≤ c.clockHz.main.get s && 1 ≤ c.clockHz.aux.get s) && 1 ≤ c.nOut.get s

/-- The map part of R18: the windows are disjoint from the cartridge window (the lowest address of one that is not
empty is its match) and pairwise disjoint; `CART_END` is a 24-bit address (R13). -/
def Cfg.mapWf (c : Cfg) : Bool :=
  c.cartEnd < 0x1000000 && c.windows.all (fun w => w.empty || c.cartEnd < w.base.toNat) && Win.allApart c.windows

/-- The sizes of R18; the stub ROM fits the cartridge window (R41), and a pixel has 1 to 4 bytes (R11, R14): log 17. -/
def Cfg.sizesWf (c : Cfg) : Bool :=
  isPow2 c.ramSize && isPow2 c.zramSize && (c.vramSize % 256 = 0 && c.vramSize ≤ 0x10000)
    && 1 ≤ c.dacBufLen && (c.stubRom ≠ [] && c.stubRom.length ≤ c.cartEnd + 1) && (1 ≤ c.bpp && c.bpp ≤ 4)

/-- A well-formed configuration (R18); every rule of the spec assumes one, and an operation on an instance whose
configuration is ill-formed is refused (R570). -/
def Cfg.wf (c : Cfg) : Bool := c.stdWf .ntsc && c.stdWf .pal && c.mapWf && c.sizesWf

/-- The parameters that have no reference value (92_eei_decisions.md, parameters left OPEN); `CFG_REF` takes them as
arguments. -/
structure OpenParams where
  hbl : PerDev (PerStd Nat)
  snapshotLine : Nat
  padTimeoutLines : Nat
  nOut : PerStd Nat
  stubRom : List Byte
  deriving DecidableEq, Repr

/-- `CFG_REF` (R12 to R16), with its OPEN parameters as arguments: console-like, unconfirmed values. -/
def Cfg.ref (o : OpenParams) : Cfg where
  linesTotal := ⟨262, 313⟩
  activeStart := ⟨0, 0⟩
  vblankStart := ⟨224, 224⟩
  bottomStart := ⟨261, 312⟩
  cpl := ⟨⟨488, 488⟩, ⟨228, 228⟩⟩
  hbl := o.hbl
  clockHz := ⟨⟨7670454, 7600489⟩, ⟨3579545, 3546894⟩⟩
  snapshotLine := o.snapshotLine
  padTimeoutLines := o.padTimeoutLines
  cartEnd := 0x3FFFFF
  ramSize := 0x10000
  ramWin := ⟨0xE00000, 0xE00000⟩
  zramSize := 0x2000
  zramWin := ⟨0xA00000, 0xFFC000⟩
  fmWin := ⟨0xA04000, 0xFFE000⟩
  bankWin := ⟨0xA06000, 0xFFFF00⟩
  ioWin := ⟨0xA10000, 0xFFFFE0⟩
  sramctlAddr := 0xA130F1
  vdpWin := ⟨0xC00000, 0xFFFFE0⟩
  minImageSize := 0x200
  stubRom := o.stubRom
  vramSize := 0x10000
  cramN := 64
  vsramN := 40
  satMax := 80
  bpp := 2
  lineW := none
  layers := none
  regMode := 0x27
  regDacdata := 0x2A
  regDacen := 0x2B
  dacBufLen := 20000
  nOut := o.nOut
  pcmCh := 2
  dacShift := 6
  timerAckLevel := false
  timerPeriod := none
  hintLevel := 4
  vintLevel := 6
  nPads := 2
  sixButton := [true, true]
  padUntouched := 0xFFFFFFFF
  regionOverseas := true

/-- `CFG_TEST` (R12 to R16), the small instance the spec's vectors use, with their stub ROM (95_test_vectors.md,
opening; 93_implementation_defined.md G13). -/
def Cfg.test : Cfg :=
  { Cfg.ref
      { hbl := ⟨⟨20, 20⟩, ⟨10, 10⟩⟩
        snapshotLine := 2
        padTimeoutLines := 3
        nOut := ⟨8, 8⟩
        stubRom := [0x4E, 0x71, 0x60, 0xFE] } with
    linesTotal := ⟨8, 10⟩
    activeStart := ⟨1, 1⟩
    vblankStart := ⟨5, 6⟩
    bottomStart := ⟨7, 9⟩
    cpl := ⟨⟨100, 100⟩, ⟨50, 50⟩⟩
    clockHz := ⟨⟨1000000, 1000000⟩, ⟨500000, 500000⟩⟩
    bpp := 1
    dacBufLen := 800
    pcmCh := 1 }

/-- The chips whose register writes reach the synthesizer (R60). -/
inductive Chip where
  | fm
  | psg
  deriving DecidableEq, Repr

/-- An entry of the synthesizer log (R60): a forwarded register write with its microsecond stamp, or the mark a system
reset leaves (R604). -/
inductive SynthEntry where
  | write (chip : Chip) (bank : Nat) (reg : Byte) (value : Byte) (nowUs : Nat)
  | resetMark
  deriving DecidableEq, Repr

/-- FREE VALUE (log 6). What happens next inside an `Execute` call that State has no record of: the call's index, the
device, the budget, how many events the call has had and the responses the engine has been given select the next event,
or the return (R9, R284; 93_implementation_defined.md U2, U3). Any behaviour is possible, a breach of the contract among
them, and it may depend on the responses. -/
opaque Config.engine : Nat → Device → Nat → Nat → List Resp → Option Event

/-- FREE VALUE (log 6). How many events such a call has at most: an engine's sequence is finite (R284). -/
opaque Config.engineLen : Nat → Device → Nat → Nat

/-- FREE VALUE (log 6). The count such a call returns, with the responses the engine was given (R284). -/
opaque Config.engineCount : Nat → Device → Nat → List Resp → Nat

/-- FREE VALUE (log 8). The synthesizer's output (R452; 93_implementation_defined.md U6): the FINALIZE's index, the
log, the sample count, a sample's index and a channel give one signed 16-bit sample. -/
opaque Config.synth : Nat → List SynthEntry → Nat → Nat → Nat → BitVec 16

/-- The one-bit locations of the host mailbox (R40). -/
inductive HostFlag where
  | mute
  | cancel
  | pal
  deriving DecidableEq, Repr

/-- FREE VALUE (log 7). The `n`th sample of `host.pad_word` that State does not hold (20_memory.md R130;
93_implementation_defined.md U1). -/
opaque Config.padDraw : Nat → BitVec 32

/-- FREE VALUE (log 7). The `n`th sample of a one-bit mailbox location that State does not hold (R130; U1). -/
opaque Config.flagDraw : HostFlag → Nat → Bool

/-- FREE VALUE (log 26). `TIMER_PERIOD_US(t, FM)` (R15) number `k`, of timer A (`false`) or B (`true`) and the FM
registers. -/
opaque Config.timerPeriod : Nat → Bool → Mem → Nat

/-- FREE VALUE (log 26). `BgPixel` number `k` of VR, VRAM, VSRAM and the position (43_vdp_compositor.md R381; U7). -/
opaque Config.bgPixel : Nat → Mem → Mem → Sparse Half → Nat → Nat → BitVec 6 × Bool

/-- FREE VALUE (log 26). `FgPixel` number `k` (R381; U7). -/
opaque Config.fgPixel : Nat → Mem → Mem → Sparse Half → Nat → Nat → BitVec 6 × Bool

/-- FREE VALUE (log 26). `SprPixel` number `k`, of a sprite as well (R381; U7). -/
opaque Config.sprPixel : Nat → Mem → Mem → Sparse Half → Nat → Nat → Nat → Option (BitVec 6 × Bool)

/-- FREE VALUE (log 30). A byte of video RAM where `VRAM_SIZE` is 0: R160 takes an address modulo a size of 0. -/
opaque Config.noVram : Nat → Byte

/-- FREE VALUE (log 30). A colour entry where `CRAM_N` is 0: R160 takes an index modulo a count of 0. -/
opaque Config.noCram : Nat → Half

/-- FREE VALUE (log 30). Byte `k` of entry `i` of the palette cache where `CRAM_N` is 0 (43_vdp_compositor.md R400). -/
opaque Config.noColour : Nat → Nat → Byte

/-- FREE VALUE (log 31). The one-byte pixel of a colour index beyond 255 (43_vdp_compositor.md R384). -/
opaque Config.wideIndex : Nat → Byte

/-- FREE VALUE (log 32). A header byte beyond the end of an image (45_cartridge_host.md R473, R474). -/
opaque Config.beyondImage : Image → Nat → Byte

end Sys2Proof
end

