-- ==== Sys2Proof/Machine/Memory.lean ====
section
/-! DEFINITION. Sparse tables: the one form in which memories and register files are held (10_state.md). A table has
a value that every unlisted index reads as; the canonical form lists rising indices and never that value, so equal
tables are equal data. -/

namespace Sys2Proof.Machine.Memory

/-- The canonical form: indices strictly rising, and no entry equal to the value `d` an unlisted index reads as. -/
abbrev wf {α : Type} (d : α) (m : Sparse α) : Prop :=
  m.Pairwise (fun x y => x.1 < y.1) ∧ ∀ c ∈ m, c.2 ≠ d

/-- What index `a` holds; `d` where nothing is listed. -/
def get {α : Type} (d : α) : Sparse α → Nat → α
  | [], _ => d
  | (b, w) :: r, a => if a = b then w else get d r a

/-- Store `v` at index `a`. Storing `d` removes the entry. -/
def put {α : Type} [DecidableEq α] (d : α) : Sparse α → Nat → α → Sparse α
  | [], a, v => if v = d then [] else [(a, v)]
  | (b, w) :: r, a, v =>
    if a < b then (if v = d then (b, w) :: r else (a, v) :: (b, w) :: r)
    else if a = b then (if v = d then r else (a, v) :: r)
    else (b, w) :: put d r a v

/-- Store `v` at the `n` indices from `a` on. -/
def fill {α : Type} [DecidableEq α] (d : α) (m : Sparse α) (a : Nat) (v : α) : Nat → Sparse α
  | 0 => m
  | n + 1 => fill d (put d m a v) (a + 1) v n

/-- Store a list of values at the indices from `a` on. -/
def putList {α : Type} [DecidableEq α] (d : α) (m : Sparse α) (a : Nat) : List α → Sparse α
  | [] => m
  | v :: vs => putList d (put d m a v) (a + 1) vs

/-- The table that holds the given values at the indices from `a` on and nothing else. -/
def ofList {α : Type} [DecidableEq α] (d : α) (a : Nat) : List α → Sparse α
  | [] => []
  | v :: vs => if v = d then ofList d (a + 1) vs else (a, v) :: ofList d (a + 1) vs

/-- The first `n` bits set, the others clear (10_state.md R52: every dirty bit is 1 at reset). -/
def allSet (n : Nat) : Sparse Bool := ofList false 0 (List.replicate n true)

/-- A finite map's entry (10_state.md R48). -/
def lookup {α : Type} : Sparse α → Nat → Option α
  | [], _ => none
  | (b, w) :: r, a => if a = b then some w else lookup r a

/-- A finite map with an entry set. -/
def insert {α : Type} : Sparse α → Nat → α → Sparse α
  | [], a, v => [(a, v)]
  | (b, w) :: r, a, v =>
    if a < b then (a, v) :: (b, w) :: r else if a = b then (a, v) :: r else (b, w) :: insert r a v

/-- A finite map with an entry removed. -/
def erase {α : Type} : Sparse α → Nat → Sparse α
  | [], _ => []
  | (b, w) :: r, a => if a = b then r else (b, w) :: erase r a

end Sys2Proof.Machine.Memory
end

