-- ==== Sys2Proof/Machine/State.lean ====
section
/-! DEFINITION. The state of one instance (10_state.md R30 to R62) as plain data, and the state after power-on. -/

namespace Sys2Proof.Machine

/-- The model's fault record (60_exceptions.md R570). A fault marks a breach of an engine's contract; it is recorded in
State and every later operation is refused (R61, log 9). -/
inductive Fault where
  /-- Raised by RUNTO and EXECUTE: `Execute(d, b)` returned `c > b` (R280). Safe: nothing runs after it. -/
  | engineOverrun (d : Device) (b c : Nat)
  /-- Raised inside `Execute`: the stamps were not rising, or one exceeds the count returned (R284). Safe. -/
  | engineStamp (d : Device)
  /-- Raised inside `Execute`: the engine issued an operation of the other agent, or AUX read the interrupt level, which is
  MAIN's to read (R284, log 16). Safe. -/
  | engineAgent (d : Device)
  deriving DecidableEq, Repr

/-- Why bytes of the input queue are no operation (log 3). -/
inductive DecodeErr where
  | empty
  | unknownRow (n : Nat)
  | truncated (n : Nat)
  | badWord (n : Nat)
  | illFormed (n : Nat)
  deriving DecidableEq, Repr

/-- Why an operation is not performed. -/
inductive Refusal where
  /-- Raised by `exec` for an operation that has no meaning yet. Safe. -/
  | notModelled (mnemonic : String)
  /-- Raised by every operation of an instance whose configuration is not well formed (R18, R570). Safe. -/
  | illFormedCfg
  /-- Raised by every operation once a fault is recorded (R264, R570). Safe. -/
  | afterFault
  /-- Raised by LOAD, UNPLUG, PATCH and RESET inside a frame (R470, R570). Safe. -/
  | insideFrame
  /-- Raised by `step` on input bytes that encode no operation (log 3). Safe. -/
  | undecodable (e : DecodeErr)
  deriving DecidableEq, Repr

/-- Which sub-slice of a scanline is running (R31). -/
inductive Slice where
  | none
  | hblank
  | display
  deriving DecidableEq, Repr

/-- The phases of a frame (41_frame_scheduler.md R261). A function of the line and the standard, not state. -/
inductive Phase where
  | topBorder
  | active
  | vblankEntry
  | vblankHold
  | bottom
  deriving DecidableEq, Repr

/-- Scheduler state (R31 to R39). `line` is the spec's `L`; `fb` holds byte `k` of pixel `x` of line `n` at index
`(n * 320 + x) * BPP + k`. Unlisted entries of `palsnap` and `fb` are 0. -/
structure Sched where
  line : Nat
  slice : Slice
  inFrame : Bool
  std : Std
  odo : PerDev Nat
  tgt : PerDev Nat
  hcnt : Int
  frameComplete : Bool
  irqH : Bool
  irqV : Bool
  palsnap : Mem
  fb : Mem
  padLatch : BitVec 32
  deriving DecidableEq, Repr

/-- One location of the host mailbox (R40) and the samples the environment gives there (20_memory.md R130, log 7): what
the host thread writes before each coming sample (`none`: nothing); after those, either the location is held, and a
sample is its value, or every sample is free value number `draws`. -/
structure Cell (α : Type) where
  value : α
  coming : List (Option α)
  held : Bool
  draws : Nat
  deriving DecidableEq, Repr

/-- The host mailbox (R40). -/
structure Mailbox where
  pad : Cell (BitVec 32)
  mute : Cell Bool
  cancel : Cell Bool
  pal : Cell Bool
  deriving DecidableEq, Repr

/-- The save-RAM descriptor (R42); `stop` is the spec's `end`. Unlisted bytes are 0. -/
structure SaveRam where
  present : Bool
  start : Addr
  stop : Addr
  active : Bool
  wp : Bool
  bytes : Mem
  deriving DecidableEq, Repr

/-- No save RAM: every field at its power-on value (R62; log 18 for those R62 gives none). -/
def SaveRam.absent : SaveRam := ⟨false, 0, 0, false, false, []⟩

/-- Bus state (R41 to R48). Unlisted entries: `ioData` 0x7F, every other table 0; `patches` is a finite map. -/
structure Bus where
  rom : Mem
  romLen : Nat
  cartPresent : Bool
  sram : SaveRam
  ram : Mem
  zram : Mem
  bank : BitVec 9
  ioData : Mem
  ioCtrl : Mem
  ioSer : Mem
  padPhase : Sparse (BitVec 2)
  padTimeout : Sparse Nat
  patches : Sparse Half
  deriving DecidableEq, Repr

/-- VDP state (R49 to R55). Unlisted entries of the tables are 0 (clear); `palCache` holds byte `k` of entry `i` at
index `i * BPP + k`. -/
structure Vdp where
  vr : Mem
  vram : Mem
  cram : Sparse Half
  vsram : Sparse Half
  dirtyVram : Sparse Bool
  dirtyCram : Sparse Bool
  dirtyPalette : Bool
  dirtySprite : Bool
  pend : Bool
  cmdHi : Half
  code : BitVec 6
  addr : Half
  fillArmed : Bool
  stVblank : Bool
  stHblank : Bool
  stF : Bool
  palCache : Mem
  sprOrder : List Nat
  deriving DecidableEq, Repr

/-- One programmable timer (R57). -/
structure Timer where
  run : Bool
  reloadUs : Nat
  deadlineUs : Nat
  deriving DecidableEq, Repr

/-- Sound state (R56 to R60). `fm` holds register `r` of bank `b` at index `b * 256 + r`; unlisted entries of `fmSel`
and `fm` are 0, of `dacBuf` 0x80. -/
structure Snd where
  fmSel : Mem
  fm : Mem
  tmA : Timer
  tmB : Timer
  tover : Byte
  dacEn : Bool
  dacLast : Byte
  dacIdx : Int
  dacBuf : Mem
  synthLog : List SynthEntry
  deriving DecidableEq, Repr

/-- The state of one instance (R30): the spec's groups, the fault record, and the model's own fields: the configuration
(log 1), the operations requested (log 3), the engines' recorded answers (log 6), the two indices of the free values
(logs 6, 8), the responses (log 19); a mailbox cell has three more (log 7). -/
structure State where
  cfg : Cfg
  sched : Sched
  bus : Bus
  vdp : Vdp
  snd : Snd
  host : Mailbox
  fault : Option Fault
  inq : List Byte
  engines : PerDev (List EngCall)
  calls : Nat
  synths : Nat
  resp : Resp
  engResps : List Resp
  deriving DecidableEq, Repr

/-- The standard a PAL flag selects (R32). -/
def stdOf (pal : Bool) : Std := if pal then .pal else .ntsc

/-- Scheduler state after a reset of either kind (R62), for the standard the PAL flag gives. -/
def Sched.fresh (c : Cfg) (s : Std) : Sched where
  line := 0
  slice := .none
  inFrame := false
  std := s
  odo := ⟨0, 0⟩
  tgt := ⟨0, 0⟩
  hcnt := 0
  frameComplete := false
  irqH := false
  irqV := false
  palsnap := []
  fb := []
  padLatch := c.padUntouched

/-- VDP state after a reset of either kind (R62): every dirty bit is 1. -/
def Vdp.fresh (c : Cfg) : Vdp where
  vr := []
  vram := []
  cram := []
  vsram := []
  dirtyVram := Memory.allSet (c.vramSize / 256)
  dirtyCram := Memory.allSet c.cramN
  dirtyPalette := true
  dirtySprite := true
  pend := false
  cmdHi := 0
  code := 0
  addr := 0
  fillArmed := false
  stVblank := false
  stHblank := false
  stF := false
  palCache := []
  sprOrder := []

/-- Sound state after a reset of either kind (R62), with the log it leaves. -/
def Snd.fresh (log : List SynthEntry) : Snd where
  fmSel := []
  fm := []
  tmA := ⟨false, 0, 0⟩
  tmB := ⟨false, 0, 0⟩
  tover := 0
  dacEn := false
  dacLast := 0x80
  dacIdx := -1
  dacBuf := []
  synthLog := log

/-- Bus state at power-on (R62): the stub ROM, no cartridge, no save RAM, everything else clear. -/
def Bus.fresh (c : Cfg) : Bus where
  rom := Memory.ofList 0 0 c.stubRom
  romLen := c.stubRom.length
  cartPresent := false
  sram := .absent
  ram := []
  zram := []
  bank := 0
  ioData := []
  ioCtrl := []
  ioSer := []
  padPhase := []
  padTimeout := []
  patches := []

/-- The mailbox at power-on (R62): no host write waits, and every sample is a free value (R130). -/
def Mailbox.fresh (c : Cfg) : Mailbox where
  pad := ⟨c.padUntouched, [], false, 0⟩
  mute := ⟨false, [], false, 0⟩
  cancel := ⟨false, [], false, 0⟩
  pal := ⟨false, [], false, 0⟩

/-- The power-on state of an instance with configuration `c`: column P of R62. -/
def State.powerOn (c : Cfg) : State where
  cfg := c
  sched := Sched.fresh c .ntsc
  bus := Bus.fresh c
  vdp := Vdp.fresh c
  snd := Snd.fresh []
  host := Mailbox.fresh c
  fault := none
  inq := []
  engines := ⟨[], []⟩
  calls := 0
  synths := 0
  resp := .none
  engResps := []

/-- The machine right after reset: power-on with the configuration the spec's vectors use (log 1). -/
def State.reset : State := State.powerOn Cfg.test

end Sys2Proof.Machine
end

