-- ==== Sys2Proof/Machine/Operands.lean ====
section
/-! DEFINITION. Operand forms: lanes and byte order, the address decode `Region`, the sub-decodes, the command-word
fields, the register fields of the VDP, the frame phase and the time base. -/

namespace Sys2Proof.Machine

/-- Bit `i` of a word as a one-bit vector (00_scope.md R19). -/
def bit {n : Nat} (w : BitVec n) (i : Nat) : BitVec 1 := BitVec.ofBool (w.getLsbD i)

/-- The field of `w` of `len` bits from bit `lo` up (R19: `w[lo + len - 1 : lo]`). -/
def field {n : Nat} (w : BitVec n) (lo len : Nat) : BitVec len := w.extractLsb' lo len

/-- The high byte of a word: the byte at the even address (20_memory.md R103). -/
def hiByte (w : Half) : Byte := field w 8 8

/-- The low byte of a word: the byte at the odd address (R103). -/
def loByte (w : Half) : Byte := field w 0 8

/-- The word of two bytes, the high one first (R103). -/
def wordOf (hi lo : Byte) : Half := hi ++ lo

/-- The byte of a word that lane `odd` of an address selects (40_bus_operations.md R231). -/
def lane (odd : Bool) (w : Half) : Byte := if odd then loByte w else hiByte w

/-- The open-bus value of an address, its own high byte (R115, R236). -/
def openBus (a : Addr) : Byte := field a 16 8

/-- An address is inside a match/mask window (R13). -/
def inWin (w : Win) (a : Addr) : Bool := a &&& w.mask = w.base

/-- The branch of the decode an address takes, with its local offset (R110). -/
inductive Region where
  | rom (o : Nat)
  | sram (o : Nat)
  | ram (o : Nat)
  | zram (o : Nat)
  | fm (p : BitVec 2)
  | banksel
  | io (o : BitVec 5)
  | sramctl
  | vdp (o : BitVec 5)
  | unmapped
  deriving DecidableEq, Repr

/-- Save RAM answers at `a`: present, active, and `a` in its range (R110, R206). -/
def sramAt (d : SaveRam) (a : Addr) : Option Nat :=
  if d.present && d.active && d.start ≤ a && a ≤ d.stop then some (a.toNat - d.start.toNat) else none

/-- The cartridge window: save RAM while active, else the image, else open (R112, R113). -/
def cartRegion (b : Bus) (a : Addr) : Region :=
  match sramAt b.sram a with
  | some o => .sram o
  | none => if a.toNat < b.romLen then .rom a.toNat else .unmapped

/-- The address decode `Region(a)` (R110). -/
def region (c : Cfg) (b : Bus) (a : Addr) : Region :=
  if a.toNat ≤ c.cartEnd then cartRegion b a
  else if inWin c.zramWin a then .zram (a.toNat &&& (c.zramSize - 1))
  else if inWin c.fmWin a then .fm (field a 0 2)
  else if inWin c.bankWin a then .banksel
  else if inWin c.ioWin a then .io (field a 0 5)
  else if a = c.sramctlAddr then .sramctl
  else if inWin c.vdpWin a then .vdp (field a 0 5)
  else if inWin c.ramWin a then .ram (a.toNat &&& (c.ramSize - 1))
  else .unmapped

/-- The port of the VDP block an offset selects (30_encoding.md R149). -/
inductive VdpPort where
  | data
  | ctrl
  | psg
  | none
  deriving DecidableEq, Repr

/-- The sub-decode of the VDP block (R149). -/
def vdpPort (o : BitVec 5) : VdpPort :=
  if o < 4 then .data else if o < 8 then .ctrl else if o = 0x11 then .psg else .none

/-- The target of an AUX address (R166). -/
inductive AuxTarget where
  | zram (o : Nat)
  | fm (p : BitVec 2)
  | banksel
  | main (a : Addr)
  | none
  deriving DecidableEq, Repr

/-- The AUX-port decode (R166): the VDP window and the banked window are main-bus byte accesses (R245, R246). -/
def auxTarget (c : Cfg) (bank : BitVec 9) (a : AuxAddr) : AuxTarget :=
  if a ≤ 0x3FFF then .zram (a.toNat &&& (c.zramSize - 1))
  else if a ≤ 0x5FFF then .fm (field a 0 2)
  else if a ≤ 0x60FF then .banksel
  else if 0x7F00 ≤ a && a ≤ 0x7F1F then .main (c.vdpWin.base ||| (field a 0 5).setWidth 24)
  else if 0x8000 ≤ a then .main (bank ++ field a 0 15)
  else .none

/-- The fields of a 32-bit command word (R157). -/
def cmdFields (w : BitVec 32) : CmdWord where
  c := field w 30 2
  a := field w 16 14
  x := field w 8 8
  cc := field w 4 4
  y := field w 2 2
  aa := field w 0 2

/-- The 6-bit code of a command: the transfer mode in bits 3:0, the DMA flag in bit 5 (R157). -/
def cmdCode (w : CmdWord) : BitVec 6 := w.cc ++ w.c

/-- The 16-bit target address of a command (R157). -/
def cmdAddr (w : CmdWord) : Half := w.aa ++ w.a

/-- The control-port word of a register set; bit 13 is ignored (R156). -/
def regsetWord (z : BitVec 1) (r : BitVec 5) (d : Byte) : Half := (2#2 ++ z) ++ r ++ d

/-- The control-port word of a first half (R156). -/
def cmd1Word (c : BitVec 2) (a : BitVec 14) : Half := c ++ a

/-- The control-port word of a second half; `x` and `y` are ignored (R156). -/
def cmd2Word (x : BitVec 8) (cc : BitVec 4) (y : BitVec 2) (aa : BitVec 2) : Half := x ++ cc ++ y ++ aa

/-- The transfer modes (R158). -/
inductive Mode where
  | vramRd
  | vramWr
  | cramWr
  | vsramRd
  | vsramWr
  | cramRd
  | invalid
  deriving DecidableEq, Repr

/-- The transfer mode of a code, by its bits 3:0 (R158). -/
def modeOf (code : BitVec 6) : Mode :=
  let m := field code 0 4
  if m = 0b0000 then .vramRd
  else if m = 0b0001 then .vramWr
  else if m = 0b0011 then .cramWr
  else if m = 0b0100 then .vsramRd
  else if m = 0b0101 then .vsramWr
  else if m = 0b1000 then .cramRd
  else .invalid

/-- The DMA modes (R159). -/
inductive DmaMode where
  | bus
  | fill
  | copy
  deriving DecidableEq, Repr

/-- The DMA mode of VR[23] (R159). -/
def dmaModeOf (v : Byte) : DmaMode :=
  if v.getLsbD 7 then (if v.getLsbD 6 then .copy else .fill) else .bus

/-- VDP register `r` (10_state.md R49). -/
def vreg (v : Vdp) (r : Nat) : Byte := Memory.get 0 v.vr r

/-- HINT_EN, the horizontal interrupt enable (R50). -/
def hintEn (v : Vdp) : Bool := (vreg v 0).getLsbD 4

/-- DISP_EN, the display enable (R50). -/
def dispEn (v : Vdp) : Bool := (vreg v 1).getLsbD 6

/-- VINT_EN, the vertical interrupt enable (R50). -/
def vintEn (v : Vdp) : Bool := (vreg v 1).getLsbD 5

/-- DMA_EN, the DMA enable (R50). -/
def dmaEn (v : Vdp) : Bool := (vreg v 1).getLsbD 4

/-- The background colour index (R50). -/
def bgColour (v : Vdp) : BitVec 6 := field (vreg v 7) 0 6

/-- The sprite attribute table's base in VRAM, before the wrap (R50, 43_vdp_compositor.md R390). -/
def satBase (v : Vdp) : Nat := (field (vreg v 5) 0 7).toNat * 512

/-- `LINE_W(VR)`, the pixels of a line, a function of VR[12] (00_scope.md R14): the reference one (R512), or the
configuration's. -/
def lineW (c : Cfg) (v : Vdp) : Nat :=
  match c.lineW with
  | none => if (vreg v 12).getLsbD 0 then 320 else 256
  | some w => w.getD (vreg v 12).toNat 0

/-- The length of a DMA in units (42_vdp_ports_dma.md R352). -/
def dmaLen (v : Vdp) : Nat :=
  let n := (vreg v 20 ++ vreg v 19).toNat
  if n = 0 then 0x10000 else n

/-- The 16-bit DMA source counter (R354, R357). -/
def dmaSrc (v : Vdp) : Half := wordOf (vreg v 22) (vreg v 21)

/-- The main-bus byte address of a bus-DMA unit (R354: `{hi, lo, 0}`). -/
def dmaAddr (hi : BitVec 7) (lo : Half) : Addr := hi ++ lo ++ 0#1

/-- The VRAM byte address the VDP address selects (30_encoding.md R160). -/
def vramIx (c : Cfg) (v : Vdp) : Nat := v.addr.toNat % c.vramSize

/-- The CRAM/VSRAM entry the VDP address selects, before the CRAM wrap (R160). -/
def entryIx (v : Vdp) : Nat := (field v.addr 1 6).toNat

/-- The phase of a scanline (41_frame_scheduler.md R262); none at or past the last line. -/
def phaseOf (c : Cfg) (l : Nat) (s : Std) : Option Phase :=
  if l < c.activeStart.get s then some .topBorder
  else if l < c.vblankStart.get s then some .active
  else if l = c.vblankStart.get s then some .vblankEntry
  else if l < c.bottomStart.get s then some .vblankHold
  else if l < c.linesTotal.get s then some .bottom
  else none

/-- The device whose engine issues a master's transactions (R140, R21, log 20). -/
def masterDevice : Master → Device
  | .main => .main
  | .auxwin => .aux
  | .dma => .main

/-- Microseconds of a cycle count of device `d` (00_scope.md R21). -/
def cyclesToUs (c : Cfg) (d : Device) (s : Std) (n : Nat) : Nat := n * 1000000 / (c.clockHz.get d).get s

/-- `now_us` for an operation of device `d` with cycle stamp `t` (R21). -/
def nowUs (s : State) (d : Device) (t : Nat) : Nat :=
  cyclesToUs s.cfg d s.sched.std (s.sched.odo.get d + t)

/-- `now_us` for a main-bus transaction (R21, R140). -/
def ctxNow (x : Ctx) (s : State) : Nat := nowUs s (masterDevice x.master) x.stamp

/-- The two timers (10_state.md R57). -/
inductive TimerId where
  | a
  | b
  deriving DecidableEq, Repr

/-- A timer's number, which is its bit in the mode register and in the overflow byte (R58, R162). -/
def timerBit : TimerId → Nat
  | .a => 0
  | .b => 1

/-- A timer's state. -/
def timerGet (x : Snd) : TimerId → Timer
  | .a => x.tmA
  | .b => x.tmB

/-- A timer's state replaced. -/
def timerSet (x : Snd) (t : TimerId) (v : Timer) : Snd :=
  match t with
  | .a => { x with tmA := v }
  | .b => { x with tmB := v }

/-- FM shadow register `r` of bank `b` (R56). -/
def fmReg (x : Snd) (b : Nat) (r : Byte) : Byte := Memory.get 0 x.fm (b * 256 + r.toNat)

/-- The button bits of pad `p` in a pad word: bits `16p + 15 : 16p` (40_bus_operations.md R228). -/
def padBits (w : BitVec 32) (p : Nat) : BitVec 16 := field w (16 * p) 16

/-- `SIX_BUTTON[p]` (R16). -/
def sixButton (c : Cfg) (p : Nat) : Bool := c.sixButton.getD p false

end Sys2Proof.Machine
end

