-- ==== Sys2Proof/Machine/Rows.lean ====
section
/-! DEFINITION. The rows of the opcode table as data (30_encoding.md section 1 to 5, spec/opcode_table.json): each row's
width and pattern, the row and the word of an operation, and the test that a word has its row's form. -/

namespace Sys2Proof.Machine

/-- A row: how many bits its word has, and the bits `mask` that must equal `pat`. -/
structure Row where
  width : Nat
  pat : BitVec 32
  mask : BitVec 32
  deriving DecidableEq, Repr

/-- BUS (R140). -/
def rowsBus : List Row := [
  ⟨2, 0x0, 0x3⟩, ⟨2, 0x1, 0x3⟩, ⟨2, 0x2, 0x3⟩, ⟨2, 0x3, 0x3⟩]

/-- BUS.REGION (R148). -/
def rowsRegion : List Row := [
  ⟨24, 0x0, 0xC00000⟩, ⟨24, 0x0, 0xC00000⟩, ⟨24, 0x0, 0xC00000⟩, ⟨24, 0x0, 0xC00000⟩, ⟨24, 0x0, 0xC00000⟩,
  ⟨24, 0x0, 0xC00000⟩, ⟨24, 0xA00000, 0xFFC000⟩, ⟨24, 0xA00000, 0xFFC000⟩, ⟨24, 0xA04000, 0xFFE000⟩,
  ⟨24, 0xA04000, 0xFFE000⟩, ⟨24, 0xA06000, 0xFFFF00⟩, ⟨24, 0xA06000, 0xFFFF00⟩, ⟨24, 0xA10000, 0xFFFFE0⟩,
  ⟨24, 0xA10000, 0xFFFFE0⟩, ⟨24, 0xA130F1, 0xFFFFFF⟩, ⟨24, 0xA130F1, 0xFFFFFF⟩, ⟨24, 0xC00000, 0xFFFFE0⟩,
  ⟨24, 0xC00000, 0xFFFFE0⟩, ⟨24, 0xE00000, 0xE00000⟩, ⟨24, 0xE00000, 0xE00000⟩, ⟨24, 0x0, 0x0⟩, ⟨24, 0x0, 0x0⟩]

/-- BUS.VDP, BUS.FM (R149, R150). -/
def rowsPort : List Row := [
  ⟨24, 0xC00000, 0xFFFFFC⟩, ⟨24, 0xC00000, 0xFFFFFC⟩, ⟨24, 0xC00004, 0xFFFFFC⟩, ⟨24, 0xC00004, 0xFFFFFC⟩,
  ⟨24, 0xC00000, 0xFFFFFC⟩, ⟨24, 0xC00000, 0xFFFFFC⟩, ⟨24, 0xC00004, 0xFFFFFC⟩, ⟨24, 0xC00004, 0xFFFFFC⟩,
  ⟨24, 0xC00011, 0xFFFFFF⟩, ⟨24, 0xC00011, 0xFFFFFF⟩, ⟨24, 0xC00000, 0xFFFFE0⟩, ⟨24, 0xC00000, 0xFFFFE0⟩,
  ⟨24, 0xA04000, 0xFFE003⟩, ⟨24, 0xA04001, 0xFFE003⟩, ⟨24, 0xA04002, 0xFFE003⟩, ⟨24, 0xA04003, 0xFFE003⟩,
  ⟨24, 0xA04000, 0xFFE000⟩]

/-- FMREG, FMVAL, PSGVAL (R162, R163). -/
def rowsSound : List Row := [
  ⟨9, 0x27, 0x1FF⟩, ⟨9, 0x2A, 0x1FF⟩, ⟨9, 0x2B, 0x1FF⟩, ⟨9, 0x24, 0x1FF⟩, ⟨9, 0x25, 0x1FF⟩, ⟨9, 0x26, 0x1FF⟩,
  ⟨9, 0x0, 0x0⟩, ⟨8, 0x0, 0x0⟩, ⟨8, 0x0, 0x0⟩, ⟨8, 0x0, 0x0⟩, ⟨8, 0x0, 0x0⟩]

/-- BUS.IO, CTLVAL (R151, R153, R154). -/
def rowsIo : List Row := [
  ⟨24, 0xA10001, 0xFFFFFF⟩, ⟨24, 0xA10003, 0xFFFFFF⟩, ⟨24, 0xA10005, 0xFFFFFF⟩, ⟨24, 0xA10007, 0xFFFFFF⟩,
  ⟨24, 0xA10009, 0xFFFFFF⟩, ⟨24, 0xA1000B, 0xFFFFFF⟩, ⟨24, 0xA1000D, 0xFFFFFF⟩, ⟨24, 0xA1000F, 0xFFFFFF⟩,
  ⟨24, 0xA10011, 0xFFFFFF⟩, ⟨24, 0xA10013, 0xFFFFFF⟩, ⟨24, 0xA10015, 0xFFFFFF⟩, ⟨24, 0xA10017, 0xFFFFFF⟩,
  ⟨24, 0xA10019, 0xFFFFFF⟩, ⟨24, 0xA1001B, 0xFFFFFF⟩, ⟨24, 0xA1001D, 0xFFFFFF⟩, ⟨24, 0xA1001F, 0xFFFFFF⟩,
  ⟨24, 0xA10000, 0xFFFFE1⟩, ⟨8, 0x0, 0x0⟩, ⟨8, 0x0, 0x0⟩]

/-- VDPCTRL16, CMD32, VR23, VDPPORT (R156 to R159, R332). -/
def rowsCtrl : List Row := [
  ⟨16, 0x8000, 0xC000⟩, ⟨16, 0x0, 0x0⟩, ⟨16, 0x0, 0x0⟩, ⟨32, 0x0, 0x0⟩, ⟨32, 0x0, 0xC0000030⟩,
  ⟨32, 0x40000000, 0xC0000030⟩, ⟨32, 0xC0000000, 0xC0000030⟩, ⟨32, 0x10, 0xC0000030⟩,
  ⟨32, 0x40000010, 0xC0000030⟩, ⟨32, 0x20, 0xC0000030⟩, ⟨32, 0x0, 0x0⟩, ⟨32, 0x80, 0x80⟩, ⟨8, 0x0, 0x80⟩,
  ⟨8, 0x80, 0xC0⟩, ⟨8, 0xC0, 0xC0⟩, ⟨0, 0x0, 0x0⟩, ⟨16, 0x0, 0x0⟩, ⟨0, 0x0, 0x0⟩, ⟨16, 0x200, 0xFF72⟩]

/-- AUX (R166). -/
def rowsAux : List Row := [
  ⟨16, 0x0, 0xC000⟩, ⟨16, 0x0, 0xC000⟩, ⟨16, 0x4000, 0xE000⟩, ⟨16, 0x4000, 0xE000⟩, ⟨16, 0x6000, 0xFF00⟩,
  ⟨16, 0x6000, 0xFF00⟩, ⟨16, 0x7F00, 0xFFE0⟩, ⟨16, 0x7F00, 0xFFE0⟩, ⟨16, 0x8000, 0x8000⟩, ⟨16, 0x8000, 0x8000⟩,
  ⟨16, 0x0, 0x0⟩, ⟨16, 0x0, 0x0⟩]

/-- ENGINE, ACK, SCHED, VDPCALL, HOST (R142 to R146). -/
def rowsEngine : List Row := [
  ⟨0, 0x0, 0x0⟩, ⟨3, 0x6, 0x7⟩, ⟨3, 0x4, 0x7⟩, ⟨3, 0x0, 0x0⟩, ⟨0, 0x0, 0x0⟩, ⟨0, 0x0, 0x0⟩, ⟨0, 0x0, 0x0⟩,
  ⟨0, 0x0, 0x0⟩, ⟨0, 0x0, 0x0⟩, ⟨0, 0x0, 0x0⟩, ⟨0, 0x0, 0x0⟩, ⟨0, 0x0, 0x0⟩, ⟨0, 0x0, 0x0⟩, ⟨0, 0x0, 0x0⟩,
  ⟨0, 0x0, 0x0⟩, ⟨0, 0x0, 0x0⟩, ⟨0, 0x0, 0x0⟩, ⟨0, 0x0, 0x0⟩, ⟨0, 0x0, 0x0⟩, ⟨0, 0x0, 0x0⟩, ⟨0, 0x0, 0x0⟩,
  ⟨0, 0x0, 0x0⟩, ⟨0, 0x0, 0x0⟩, ⟨0, 0x0, 0x0⟩, ⟨0, 0x0, 0x0⟩, ⟨0, 0x0, 0x0⟩, ⟨0, 0x0, 0x0⟩, ⟨0, 0x0, 0x0⟩,
  ⟨0, 0x0, 0x0⟩]

/-- The whole table, in the order of spec/opcode_table.json. VDPNONE has the pattern of the VDP block (its offsets are in
`rowCond`); the read-only row VSTAT has the pattern of the word it answers (R332). -/
def rowTable : List Row :=
  rowsBus ++ rowsRegion ++ rowsPort ++ rowsSound ++ rowsIo ++ rowsCtrl ++ rowsAux ++ rowsEngine

/-- Row `n`. -/
def rowAt (n : Nat) : Row := rowTable.getD n ⟨0, 0, 0⟩

/-- The registers of bank 0 that have a row of their own (R162), as `{bank, register}`. -/
def namedFm : List (BitVec 9) := [0x024, 0x025, 0x026, 0x027, 0x02A, 0x02B]

/-- What the table's "otherwise" rows ask beyond a pattern, and the one restriction of CMD1: VDPNONE (R149), FMREG.OTHER
(R162), CMD1 (R156), MODE.INVALID (R158), the AUX rows NONE (R166). -/
def rowCond (n : Nat) (w : BitVec 32) : Bool :=
  if n = 36 || n = 37 then vdpPort (field w 0 5) = .none
  else if n = 49 then !namedFm.contains (field w 0 9)
  else if n = 74 then field w 14 2 ≠ 2
  else if n = 83 then modeOf (cmdCode (cmdFields w)) = .invalid
  else if n = 102 || n = 103 then auxTarget Cfg.test 0 (field w 0 16) = .none
  else true

/-- The word has the form of row `n`: no bit above the row's width, the row's pattern, the row's condition. -/
def fits (n : Nat) (w : BitVec 32) : Bool :=
  w.toNat < 2 ^ (rowAt n).width && w &&& (rowAt n).mask = (rowAt n).pat && rowCond n w

/-- The 32-bit command word of its fields (R157). -/
def cmdWord (w : CmdWord) : BitVec 32 := cmd1Word w.c w.a ++ cmd2Word w.x w.cc w.y w.aa

/-- The row of an operation: its place in spec/opcode_table.json, from 0. -/
def rowOf : Instr → Nat
  | .rd8 _ _ => 0
  | .rd16 _ _ => 1
  | .wr8 _ _ _ => 2
  | .wr16 _ _ _ => 3
  | .rd8Sram _ _ => 4
  | .wr8Sram _ _ _ => 5
  | .rd8Rom _ _ => 6
  | .wr8Rom _ _ _ => 7
  | .rd8Cartopen _ _ => 8
  | .wr8Cartopen _ _ _ => 9
  | .rd8Zram _ _ => 10
  | .wr8Zram _ _ _ => 11
  | .rd8Fm _ _ => 12
  | .wr8Fm _ _ _ => 13
  | .rd8Banksel _ _ => 14
  | .wr8Banksel _ _ _ => 15
  | .rd8Io _ _ => 16
  | .wr8Io _ _ _ => 17
  | .rd8Sramctl _ _ => 18
  | .wr8Sramctl _ _ _ => 19
  | .rd8Vdp _ _ => 20
  | .wr8Vdp _ _ _ => 21
  | .rd8Ram _ _ => 22
  | .wr8Ram _ _ _ => 23
  | .rd8Open _ _ => 24
  | .wr8Open _ _ _ => 25
  | .rd16Vdpdata _ _ => 26
  | .wr16Vdpdata _ _ _ => 27
  | .rd16Vdpctrl _ _ => 28
  | .wr16Vdpctrl _ _ _ => 29
  | .rd8Vdpdata _ _ => 30
  | .wr8Vdpdata _ _ _ => 31
  | .rd8Vdpctrl _ _ => 32
  | .wr8Vdpctrl _ _ _ => 33
  | .rd8Psg _ _ => 34
  | .wr8Psg _ _ _ => 35
  | .rd8Vdpnone _ _ => 36
  | .wr8Vdpnone _ _ _ => 37
  | .wr8FmAddr0 _ _ _ => 38
  | .wr8FmData0 _ _ _ => 39
  | .wr8FmAddr1 _ _ _ => 40
  | .wr8FmData1 _ _ _ => 41
  | .rd8FmAny _ _ => 42
  | .fmregMode _ _ => 43
  | .fmregDacdata _ _ => 44
  | .fmregDacen _ _ => 45
  | .fmregTaHi _ _ => 46
  | .fmregTaLo _ _ => 47
  | .fmregTb _ _ => 48
  | .fmregOther _ _ _ _ => 49
  | .modeValue _ _ => 50
  | .dacenValue _ _ => 51
  | .dacdataValue _ _ => 52
  | .psgValue _ _ => 53
  | .ioVersion _ => 54
  | .ioData0 _ => 55
  | .ioData1 _ => 56
  | .ioData2 _ => 57
  | .ioCtrl0 _ => 58
  | .ioCtrl1 _ => 59
  | .ioCtrl2 _ => 60
  | .ioSer0 _ => 61
  | .ioSer1 _ => 62
  | .ioSer2 _ => 63
  | .ioSer3 _ => 64
  | .ioSer4 _ => 65
  | .ioSer5 _ => 66
  | .ioSer6 _ => 67
  | .ioSer7 _ => 68
  | .ioSer8 _ => 69
  | .ioEven _ _ => 70
  | .sramctlValue _ => 71
  | .bankselValue _ => 72
  | .regset _ _ _ => 73
  | .cmd1 _ _ => 74
  | .cmd2 _ _ _ _ => 75
  | .command _ => 76
  | .modeVramRd _ => 77
  | .modeVramWr _ => 78
  | .modeCramWr _ => 79
  | .modeVsramRd _ => 80
  | .modeVsramWr _ => 81
  | .modeCramRd _ => 82
  | .modeInvalid _ => 83
  | .dmaflag _ => 84
  | .dmaBus _ => 85
  | .dmaFill _ _ => 86
  | .dmaCopy _ => 87
  | .dmastart => 88
  | .vdataWr _ => 89
  | .vdataRd => 90
  | .vstat => 91
  | .ardZram _ _ => 92
  | .awrZram _ _ _ => 93
  | .ardFm _ _ => 94
  | .awrFm _ _ _ => 95
  | .ardBanksel _ _ => 96
  | .awrBanksel _ _ _ => 97
  | .ardVdpwin _ _ => 98
  | .awrVdpwin _ _ _ => 99
  | .ardBankwin _ _ => 100
  | .awrBankwin _ _ _ => 101
  | .ardNone _ _ => 102
  | .awrNone _ _ _ => 103
  | .execute _ _ => 104
  | .ackV => 105
  | .ackH => 106
  | .ackSpurious _ => 107
  | .runframe => 108
  | .framestart => 109
  | .linestep => 110
  | .padtimeout => 111
  | .padsample => 112
  | .timerstep => 113
  | .hstep => 114
  | .slices => 115
  | .snapshot => 116
  | .vblankboundary => 117
  | .runto _ _ => 118
  | .frameend => 119
  | .drawline _ => 120
  | .timertick => 121
  | .finalize => 122
  | .soundframestart => 123
  | .timerrebase _ => 124
  | .hostLoad _ => 125
  | .hostUnplug => 126
  | .hostPatch _ => 127
  | .hostReset => 128
  | .hostSetpad _ => 129
  | .hostSetmute _ => 130
  | .hostSetcancel _ => 131
  | .hostSetpal _ => 132

/-- The word of an operation, as its row encodes it; 0 where the row has no bits. -/
def rowWord : Instr → BitVec 32
  | .rd8 _ _ => 0
  | .rd16 _ _ => 1
  | .wr8 _ _ _ => 2
  | .wr16 _ _ _ => 3
  | .rd8Sram _ a => a.setWidth 32
  | .wr8Sram _ a _ => a.setWidth 32
  | .rd8Rom _ a => a.setWidth 32
  | .wr8Rom _ a _ => a.setWidth 32
  | .rd8Cartopen _ a => a.setWidth 32
  | .wr8Cartopen _ a _ => a.setWidth 32
  | .rd8Zram _ a => a.setWidth 32
  | .wr8Zram _ a _ => a.setWidth 32
  | .rd8Fm _ a => a.setWidth 32
  | .wr8Fm _ a _ => a.setWidth 32
  | .rd8Banksel _ a => a.setWidth 32
  | .wr8Banksel _ a _ => a.setWidth 32
  | .rd8Io _ a => a.setWidth 32
  | .wr8Io _ a _ => a.setWidth 32
  | .rd8Sramctl _ a => a.setWidth 32
  | .wr8Sramctl _ a _ => a.setWidth 32
  | .rd8Vdp _ a => a.setWidth 32
  | .wr8Vdp _ a _ => a.setWidth 32
  | .rd8Ram _ a => a.setWidth 32
  | .wr8Ram _ a _ => a.setWidth 32
  | .rd8Open _ a => a.setWidth 32
  | .wr8Open _ a _ => a.setWidth 32
  | .rd16Vdpdata _ a => a.setWidth 32
  | .wr16Vdpdata _ a _ => a.setWidth 32
  | .rd16Vdpctrl _ a => a.setWidth 32
  | .wr16Vdpctrl _ a _ => a.setWidth 32
  | .rd8Vdpdata _ a => a.setWidth 32
  | .wr8Vdpdata _ a _ => a.setWidth 32
  | .rd8Vdpctrl _ a => a.setWidth 32
  | .wr8Vdpctrl _ a _ => a.setWidth 32
  | .rd8Psg _ a => a.setWidth 32
  | .wr8Psg _ a _ => a.setWidth 32
  | .rd8Vdpnone _ a => a.setWidth 32
  | .wr8Vdpnone _ a _ => a.setWidth 32
  | .wr8FmAddr0 _ a _ => a.setWidth 32
  | .wr8FmData0 _ a _ => a.setWidth 32
  | .wr8FmAddr1 _ a _ => a.setWidth 32
  | .wr8FmData1 _ a _ => a.setWidth 32
  | .rd8FmAny _ a => a.setWidth 32
  | .fmregMode _ _ => 0x27
  | .fmregDacdata _ _ => 0x2A
  | .fmregDacen _ _ => 0x2B
  | .fmregTaHi _ _ => 0x24
  | .fmregTaLo _ _ => 0x25
  | .fmregTb _ _ => 0x26
  | .fmregOther _ bank r _ => (bank ++ r).setWidth 32
  | .modeValue _ v => v.setWidth 32
  | .dacenValue _ v => v.setWidth 32
  | .dacdataValue _ v => v.setWidth 32
  | .psgValue _ v => v.setWidth 32
  | .ioVersion _ => 0xA10001
  | .ioData0 _ => 0xA10003
  | .ioData1 _ => 0xA10005
  | .ioData2 _ => 0xA10007
  | .ioCtrl0 _ => 0xA10009
  | .ioCtrl1 _ => 0xA1000B
  | .ioCtrl2 _ => 0xA1000D
  | .ioSer0 _ => 0xA1000F
  | .ioSer1 _ => 0xA10011
  | .ioSer2 _ => 0xA10013
  | .ioSer3 _ => 0xA10015
  | .ioSer4 _ => 0xA10017
  | .ioSer5 _ => 0xA10019
  | .ioSer6 _ => 0xA1001B
  | .ioSer7 _ => 0xA1001D
  | .ioSer8 _ => 0xA1001F
  | .ioEven a _ => a.setWidth 32
  | .sramctlValue v => v.setWidth 32
  | .bankselValue v => v.setWidth 32
  | .regset z r d => (regsetWord z r d).setWidth 32
  | .cmd1 c a => (cmd1Word c a).setWidth 32
  | .cmd2 x cc y aa => (cmd2Word x cc y aa).setWidth 32
  | .command w => cmdWord w
  | .modeVramRd w => cmdWord w
  | .modeVramWr w => cmdWord w
  | .modeCramWr w => cmdWord w
  | .modeVsramRd w => cmdWord w
  | .modeVsramWr w => cmdWord w
  | .modeCramRd w => cmdWord w
  | .modeInvalid w => cmdWord w
  | .dmaflag w => cmdWord w
  | .dmaBus hi => hi.setWidth 32
  | .dmaFill z _ => (2#2 ++ z).setWidth 32
  | .dmaCopy z => (3#2 ++ z).setWidth 32
  | .dmastart => 0
  | .vdataWr d => d.setWidth 32
  | .vdataRd => 0
  | .vstat => 0x200
  | .ardZram a _ => a.setWidth 32
  | .awrZram a _ _ => a.setWidth 32
  | .ardFm a _ => a.setWidth 32
  | .awrFm a _ _ => a.setWidth 32
  | .ardBanksel a _ => a.setWidth 32
  | .awrBanksel a _ _ => a.setWidth 32
  | .ardVdpwin a _ => a.setWidth 32
  | .awrVdpwin a _ _ => a.setWidth 32
  | .ardBankwin a _ => a.setWidth 32
  | .awrBankwin a _ _ => a.setWidth 32
  | .ardNone a _ => a.setWidth 32
  | .awrNone a _ _ => a.setWidth 32
  | .execute _ _ => 0
  | .ackV => 6
  | .ackH => 4
  | .ackSpurious level => level.setWidth 32
  | .runframe => 0
  | .framestart => 0
  | .linestep => 0
  | .padtimeout => 0
  | .padsample => 0
  | .timerstep => 0
  | .hstep => 0
  | .slices => 0
  | .snapshot => 0
  | .vblankboundary => 0
  | .runto _ _ => 0
  | .frameend => 0
  | .drawline _ => 0
  | .timertick => 0
  | .finalize => 0
  | .soundframestart => 0
  | .timerrebase _ => 0
  | .hostLoad _ => 0
  | .hostUnplug => 0
  | .hostPatch _ => 0
  | .hostReset => 0
  | .hostSetpad _ => 0
  | .hostSetmute _ => 0
  | .hostSetcancel _ => 0
  | .hostSetpal _ => 0

end Sys2Proof.Machine
end

