-- ==== Sys2Proof/WellFormed.lean ====
section
/-! DEFINITION. Well-formed operations: the word has its row's form, and the operands are in the ranges the formats give
(30_encoding.md section 1) or, for naturals, that the transport carries (log 3). -/

namespace Sys2Proof

open Machine

/-- A natural the transport carries in four bytes (log 3). -/
def nat32 (n : Nat) : Bool := n < 0x100000000

/-- The context of a read: any master (R140). -/
def Ctx.wf (x : Ctx) : Bool := nat32 x.stamp

/-- The context of a write: a DMA only reads (R140, 42_vdp_ports_dma.md R354). -/
def Ctx.wfWrite (x : Ctx) : Bool := nat32 x.stamp && x.master ≠ .dma

/-- Indices strictly rising, as in the canonical form of a table. -/
def rising : Mem → Bool
  | [] => true
  | [_] => true
  | x :: y :: r => x.1 < y.1 && rising (y :: r)

/-- An image: its bytes lie below its length, in canonical form (R472). -/
def Image.wf (i : Image) : Bool :=
  nat32 i.len && i.bytes.all (fun c => c.1 < i.len && c.2 ≠ 0) && rising i.bytes

/-- The operands of an operation, apart from its word. The line of DRAWLINE is any integer (43_vdp_compositor.md R400); the
transport carries it as a signed 32-bit value and refuses another (log 3), while `exec` takes any. -/
def operandsWf : Instr → Bool
  | .rd8 x _ | .rd16 x _ => x.wf
  | .wr8 x _ _ | .wr16 x _ _ => x.wfWrite
  | .rd8Sram x _ | .rd8Rom x _ | .rd8Cartopen x _ | .rd8Zram x _ | .rd8Fm x _ | .rd8Banksel x _ | .rd8Io x _
  | .rd8Sramctl x _ | .rd8Vdp x _ | .rd8Ram x _ | .rd8Open x _ => x.wf
  | .wr8Sram x _ _ | .wr8Rom x _ _ | .wr8Cartopen x _ _ | .wr8Zram x _ _ | .wr8Fm x _ _ | .wr8Banksel x _ _
  | .wr8Io x _ _ | .wr8Sramctl x _ _ | .wr8Vdp x _ _ | .wr8Ram x _ _ | .wr8Open x _ _ => x.wfWrite
  | .rd16Vdpdata x _ | .rd16Vdpctrl x _ | .rd8Vdpdata x _ | .rd8Vdpctrl x _ | .rd8Psg x _ | .rd8Vdpnone x _
  | .rd8FmAny x _ => x.wf
  | .wr16Vdpdata x _ _ | .wr16Vdpctrl x _ _ | .wr8Vdpdata x _ _ | .wr8Vdpctrl x _ _ | .wr8Psg x _ _
  | .wr8Vdpnone x _ _ | .wr8FmAddr0 x _ _ | .wr8FmData0 x _ _ | .wr8FmAddr1 x _ _ | .wr8FmData1 x _ _ => x.wfWrite
  | .fmregMode x _ | .fmregDacdata x _ | .fmregDacen x _ | .fmregTaHi x _ | .fmregTaLo x _ | .fmregTb x _
  | .fmregOther x _ _ _ | .modeValue x _ | .dacenValue x _ | .dacdataValue x _ | .psgValue x _ => x.wfWrite
  | .ioVersion _ | .ioData0 _ | .ioData1 _ | .ioData2 _ | .ioCtrl0 _ | .ioCtrl1 _ | .ioCtrl2 _ | .ioSer0 _
  | .ioSer1 _ | .ioSer2 _ | .ioSer3 _ | .ioSer4 _ | .ioSer5 _ | .ioSer6 _ | .ioSer7 _ | .ioSer8 _
  | .ioEven _ _ | .sramctlValue _ | .bankselValue _ => true
  | .regset _ _ _ | .cmd1 _ _ | .cmd2 _ _ _ _ | .command _ | .modeVramRd _ | .modeVramWr _ | .modeCramWr _
  | .modeVsramRd _ | .modeVsramWr _ | .modeCramRd _ | .modeInvalid _ | .dmaflag _ | .dmaBus _ | .dmaFill _ _
  | .dmaCopy _ | .dmastart | .vdataWr _ | .vdataRd | .vstat => true
  | .ardZram _ t | .ardFm _ t | .ardBanksel _ t | .ardVdpwin _ t | .ardBankwin _ t | .ardNone _ t => nat32 t
  | .awrZram _ _ t | .awrFm _ _ t | .awrBanksel _ _ t | .awrVdpwin _ _ t | .awrBankwin _ _ t
  | .awrNone _ _ t => nat32 t
  | .execute _ b => 1 ≤ b && nat32 b
  | .ackV | .ackH => true
  | .ackSpurious l => l ≠ 0
  | .runframe | .framestart | .linestep | .padtimeout | .padsample | .timerstep | .hstep | .slices | .snapshot
  | .vblankboundary | .frameend => true
  | .runto _ T => nat32 T
  | .drawline n => -0x80000000 ≤ n && n < 0x80000000
  | .timertick | .finalize | .soundframestart => true
  | .timerrebase us => nat32 us
  | .hostLoad i => i.wf && i.bytes.length < 0x100000000
  | .hostPatch l => l.length < 0x100000000
  | .hostUnplug | .hostReset | .hostSetpad _ | .hostSetmute _ | .hostSetcancel _ | .hostSetpal _ => true

/-- A well-formed operation. -/
def Instr.wf (i : Instr) : Bool := fits (rowOf i) (rowWord i) && operandsWf i

end Sys2Proof
end

