-- ==== Sys2Proof/Decode.lean ====
section
/-! DEFINITION. Decoding and encoding of operations as the model transports them (log 3): the row's number, the row's
word (30_encoding.md), most significant byte first, then the operands that are no part of the word. -/

namespace Sys2Proof

open Machine

/-- How a value is written as bytes and read back from the front of a byte string. -/
structure Codec (α : Type) where
  put : α → List Byte
  get : List Byte → Option (α × List Byte)

/-- The low `n` bytes of a word, most significant first. -/
def putWord : Nat → BitVec 32 → List Byte
  | 0, _ => []
  | n + 1, w => field w (8 * n) 8 :: putWord n w

/-- The word of the first `n` bytes, most significant first, after those already read. -/
def takeWord : Nat → BitVec 32 → List Byte → Option (BitVec 32 × List Byte)
  | 0, w, r => some (w, r)
  | _ + 1, _, [] => none
  | n + 1, w, b :: r => takeWord n (w <<< 8 ||| b.setWidth 32) r

/-- An `n`-byte word. -/
def Codec.word (n : Nat) : Codec (BitVec 32) := ⟨putWord n, takeWord n 0⟩

/-- A value carried as another one. -/
def Codec.map {α β : Type} (k : Codec α) (f : α → β) (g : β → α) : Codec β :=
  ⟨fun b => k.put (g b), fun r => (k.get r).map fun p => (f p.1, p.2)⟩

/-- A value carried as another one, where not every one is a value. -/
def Codec.filterMap {α β : Type} (k : Codec α) (f : α → Option β) (g : β → α) : Codec β :=
  ⟨fun b => k.put (g b), fun r => (k.get r).bind fun p => (f p.1).map fun b => (b, p.2)⟩

/-- Two values, one after the other. -/
def Codec.pair {α β : Type} (k : Codec α) (l : Codec β) : Codec (α × β) :=
  ⟨fun p => k.put p.1 ++ l.put p.2,
    fun r => (k.get r).bind fun p => (l.get p.2).map fun q => ((p.1, q.1), q.2)⟩

/-- No operand. -/
def Codec.unit : Codec Unit := ⟨fun _ => [], fun r => some ((), r)⟩

/-- A bit vector of at most 32 bits in `n` bytes. -/
def Codec.bits (n w : Nat) : Codec (BitVec w) :=
  (Codec.word n).map (fun x => x.setWidth w) (fun x => x.setWidth 32)

/-- A byte. -/
def Codec.byte : Codec Byte := Codec.bits 1 8

/-- A 16-bit word. -/
def Codec.half : Codec Half := Codec.bits 2 16

/-- A natural below 2^32. -/
def Codec.nat : Codec Nat := (Codec.word 4).map BitVec.toNat (BitVec.ofNat 32)

/-- An integer of 32 bits. -/
def Codec.int : Codec Int := (Codec.word 4).map BitVec.toInt (BitVec.ofInt 32)

/-- A master: 0, 1, 2 in the order of R140. -/
def Codec.master : Codec Master :=
  Codec.byte.filterMap
    (fun b => if b = 0 then some .main else if b = 1 then some .auxwin else if b = 2 then some .dma else none)
    (fun m => match m with
      | .main => 0
      | .auxwin => 1
      | .dma => 2)

/-- A device: 0, 1 in the order of R11. -/
def Codec.device : Codec Device :=
  Codec.byte.filterMap (fun b => if b = 0 then some .main else if b = 1 then some .aux else none)
    (fun d => match d with
      | .main => 0
      | .aux => 1)

/-- A bit. -/
def Codec.bit : Codec Bool :=
  Codec.byte.filterMap (fun b => if b = 0 then some false else if b = 1 then some true else none)
    (fun b => if b then 1 else 0)

/-- A context: the master, then the stamp (R140). -/
def Codec.ctx : Codec Ctx :=
  (Codec.master.pair Codec.nat).map (fun p => ⟨p.1, p.2⟩) (fun x => (x.master, x.stamp))

/-- The direction of an access and, for a write, its data: two bytes, the second 0 for a read. -/
def Codec.access : Codec Access :=
  (Codec.bit.pair Codec.byte).filterMap
    (fun p => if p.1 then some (.write p.2) else if p.2 = 0 then some .read else none)
    (fun k => match k with
      | .read => (false, 0)
      | .write v => (true, v))

/-- A list's values in order. -/
def putMany {α : Type} (k : Codec α) : List α → List Byte
  | [] => []
  | a :: r => k.put a ++ putMany k r

/-- As many values as the first argument says. -/
def takeMany {α : Type} (k : Codec α) : Nat → List Byte → Option (List α × List Byte)
  | 0, r => some ([], r)
  | n + 1, r => (k.get r).bind fun p => (takeMany k n p.2).map fun q => (p.1 :: q.1, q.2)

/-- A list: its length, then its values. -/
def Codec.list {α : Type} (k : Codec α) : Codec (List α) :=
  ⟨fun l => Codec.nat.put l.length ++ putMany k l, fun r => (Codec.nat.get r).bind fun p => takeMany k p.1 p.2⟩

/-- An image (R472). -/
def Codec.image : Codec Image :=
  (Codec.nat.pair (Codec.list (Codec.nat.pair Codec.byte))).map (fun p => ⟨p.1, p.2⟩) (fun i => (i.len, i.bytes))

/-- The codes of PATCH (R482). -/
def Codec.codes : Codec (List (Addr × Half)) := Codec.list ((Codec.bits 3 24).pair Codec.half)

/-- How the operands of a row are read, once its word is known. -/
abbrev Reader := BitVec 32 → List Byte → Option (Instr × List Byte)

/-- A row whose operands have a codec. -/
def reads {α : Type} (k : Codec α) (f : BitVec 32 → α → Instr) : Reader :=
  fun w r => (k.get r).map fun p => (f w p.1, p.2)

/-- BUS (R140): the address is no part of the two-bit word. -/
def readersBus : List Reader := [
  reads ((Codec.bits 3 24).pair Codec.ctx) fun _ p => .rd8 p.2 p.1,
  reads ((Codec.bits 3 24).pair Codec.ctx) fun _ p => .rd16 p.2 p.1,
  reads ((Codec.bits 3 24).pair (Codec.byte.pair Codec.ctx)) fun _ p => .wr8 p.2.2 p.1 p.2.1,
  reads ((Codec.bits 3 24).pair (Codec.half.pair Codec.ctx)) fun _ p => .wr16 p.2.2 p.1 p.2.1]

/-- BUS.REGION (R148): the word is the address. -/
def readersRegion : List Reader := [
  reads Codec.ctx fun w x => .rd8Sram x (field w 0 24),
  reads (Codec.byte.pair Codec.ctx) fun w p => .wr8Sram p.2 (field w 0 24) p.1,
  reads Codec.ctx fun w x => .rd8Rom x (field w 0 24),
  reads (Codec.byte.pair Codec.ctx) fun w p => .wr8Rom p.2 (field w 0 24) p.1,
  reads Codec.ctx fun w x => .rd8Cartopen x (field w 0 24),
  reads (Codec.byte.pair Codec.ctx) fun w p => .wr8Cartopen p.2 (field w 0 24) p.1,
  reads Codec.ctx fun w x => .rd8Zram x (field w 0 24),
  reads (Codec.byte.pair Codec.ctx) fun w p => .wr8Zram p.2 (field w 0 24) p.1,
  reads Codec.ctx fun w x => .rd8Fm x (field w 0 24),
  reads (Codec.byte.pair Codec.ctx) fun w p => .wr8Fm p.2 (field w 0 24) p.1,
  reads Codec.ctx fun w x => .rd8Banksel x (field w 0 24),
  reads (Codec.byte.pair Codec.ctx) fun w p => .wr8Banksel p.2 (field w 0 24) p.1,
  reads Codec.ctx fun w x => .rd8Io x (field w 0 24),
  reads (Codec.byte.pair Codec.ctx) fun w p => .wr8Io p.2 (field w 0 24) p.1,
  reads Codec.ctx fun w x => .rd8Sramctl x (field w 0 24),
  reads (Codec.byte.pair Codec.ctx) fun w p => .wr8Sramctl p.2 (field w 0 24) p.1,
  reads Codec.ctx fun w x => .rd8Vdp x (field w 0 24),
  reads (Codec.byte.pair Codec.ctx) fun w p => .wr8Vdp p.2 (field w 0 24) p.1,
  reads Codec.ctx fun w x => .rd8Ram x (field w 0 24),
  reads (Codec.byte.pair Codec.ctx) fun w p => .wr8Ram p.2 (field w 0 24) p.1,
  reads Codec.ctx fun w x => .rd8Open x (field w 0 24),
  reads (Codec.byte.pair Codec.ctx) fun w p => .wr8Open p.2 (field w 0 24) p.1]

/-- BUS.VDP, BUS.FM (R149, R150). -/
def readersPort : List Reader := [
  reads Codec.ctx fun w x => .rd16Vdpdata x (field w 0 24),
  reads (Codec.half.pair Codec.ctx) fun w p => .wr16Vdpdata p.2 (field w 0 24) p.1,
  reads Codec.ctx fun w x => .rd16Vdpctrl x (field w 0 24),
  reads (Codec.half.pair Codec.ctx) fun w p => .wr16Vdpctrl p.2 (field w 0 24) p.1,
  reads Codec.ctx fun w x => .rd8Vdpdata x (field w 0 24),
  reads (Codec.byte.pair Codec.ctx) fun w p => .wr8Vdpdata p.2 (field w 0 24) p.1,
  reads Codec.ctx fun w x => .rd8Vdpctrl x (field w 0 24),
  reads (Codec.byte.pair Codec.ctx) fun w p => .wr8Vdpctrl p.2 (field w 0 24) p.1,
  reads Codec.ctx fun w x => .rd8Psg x (field w 0 24),
  reads (Codec.byte.pair Codec.ctx) fun w p => .wr8Psg p.2 (field w 0 24) p.1,
  reads Codec.ctx fun w x => .rd8Vdpnone x (field w 0 24),
  reads (Codec.byte.pair Codec.ctx) fun w p => .wr8Vdpnone p.2 (field w 0 24) p.1,
  reads (Codec.byte.pair Codec.ctx) fun w p => .wr8FmAddr0 p.2 (field w 0 24) p.1,
  reads (Codec.byte.pair Codec.ctx) fun w p => .wr8FmData0 p.2 (field w 0 24) p.1,
  reads (Codec.byte.pair Codec.ctx) fun w p => .wr8FmAddr1 p.2 (field w 0 24) p.1,
  reads (Codec.byte.pair Codec.ctx) fun w p => .wr8FmData1 p.2 (field w 0 24) p.1,
  reads Codec.ctx fun w x => .rd8FmAny x (field w 0 24)]

/-- FMREG, FMVAL, PSGVAL (R162, R163). -/
def readersSound : List Reader := [
  reads (Codec.byte.pair Codec.ctx) fun _ p => .fmregMode p.2 p.1,
  reads (Codec.byte.pair Codec.ctx) fun _ p => .fmregDacdata p.2 p.1,
  reads (Codec.byte.pair Codec.ctx) fun _ p => .fmregDacen p.2 p.1,
  reads (Codec.byte.pair Codec.ctx) fun _ p => .fmregTaHi p.2 p.1,
  reads (Codec.byte.pair Codec.ctx) fun _ p => .fmregTaLo p.2 p.1,
  reads (Codec.byte.pair Codec.ctx) fun _ p => .fmregTb p.2 p.1,
  reads (Codec.byte.pair Codec.ctx) fun w p => .fmregOther p.2 (field w 8 1) (field w 0 8) p.1,
  reads Codec.ctx fun w x => .modeValue x (field w 0 8),
  reads Codec.ctx fun w x => .dacenValue x (field w 0 8),
  reads Codec.ctx fun w x => .dacdataValue x (field w 0 8),
  reads Codec.ctx fun w x => .psgValue x (field w 0 8)]

/-- BUS.IO, CTLVAL (R151, R153, R154). -/
def readersIo : List Reader := [
  reads Codec.access fun _ k => .ioVersion k,
  reads Codec.access fun _ k => .ioData0 k,
  reads Codec.access fun _ k => .ioData1 k,
  reads Codec.access fun _ k => .ioData2 k,
  reads Codec.access fun _ k => .ioCtrl0 k,
  reads Codec.access fun _ k => .ioCtrl1 k,
  reads Codec.access fun _ k => .ioCtrl2 k,
  reads Codec.access fun _ k => .ioSer0 k,
  reads Codec.access fun _ k => .ioSer1 k,
  reads Codec.access fun _ k => .ioSer2 k,
  reads Codec.access fun _ k => .ioSer3 k,
  reads Codec.access fun _ k => .ioSer4 k,
  reads Codec.access fun _ k => .ioSer5 k,
  reads Codec.access fun _ k => .ioSer6 k,
  reads Codec.access fun _ k => .ioSer7 k,
  reads Codec.access fun _ k => .ioSer8 k,
  reads Codec.access fun w k => .ioEven (field w 0 24) k,
  reads Codec.unit fun w _ => .sramctlValue (field w 0 8),
  reads Codec.unit fun w _ => .bankselValue (field w 0 8)]

/-- VDPCTRL16, CMD32, VR23, VDPPORT (R156 to R159). -/
def readersCtrl : List Reader := [
  reads Codec.unit fun w _ => .regset (field w 13 1) (field w 8 5) (field w 0 8),
  reads Codec.unit fun w _ => .cmd1 (field w 14 2) (field w 0 14),
  reads Codec.unit fun w _ => .cmd2 (field w 8 8) (field w 4 4) (field w 2 2) (field w 0 2),
  reads Codec.unit fun w _ => .command (cmdFields w),
  reads Codec.unit fun w _ => .modeVramRd (cmdFields w),
  reads Codec.unit fun w _ => .modeVramWr (cmdFields w),
  reads Codec.unit fun w _ => .modeCramWr (cmdFields w),
  reads Codec.unit fun w _ => .modeVsramRd (cmdFields w),
  reads Codec.unit fun w _ => .modeVsramWr (cmdFields w),
  reads Codec.unit fun w _ => .modeCramRd (cmdFields w),
  reads Codec.unit fun w _ => .modeInvalid (cmdFields w),
  reads Codec.unit fun w _ => .dmaflag (cmdFields w),
  reads Codec.unit fun w _ => .dmaBus (field w 0 7),
  reads Codec.byte fun w b => .dmaFill (field w 0 6) b,
  reads Codec.unit fun w _ => .dmaCopy (field w 0 6),
  reads Codec.unit fun _ _ => .dmastart,
  reads Codec.unit fun w _ => .vdataWr (field w 0 16),
  reads Codec.unit fun _ _ => .vdataRd,
  reads Codec.unit fun _ _ => .vstat]

/-- AUX (R166). -/
def readersAux : List Reader := [
  reads Codec.nat fun w t => .ardZram (field w 0 16) t,
  reads (Codec.byte.pair Codec.nat) fun w p => .awrZram (field w 0 16) p.1 p.2,
  reads Codec.nat fun w t => .ardFm (field w 0 16) t,
  reads (Codec.byte.pair Codec.nat) fun w p => .awrFm (field w 0 16) p.1 p.2,
  reads Codec.nat fun w t => .ardBanksel (field w 0 16) t,
  reads (Codec.byte.pair Codec.nat) fun w p => .awrBanksel (field w 0 16) p.1 p.2,
  reads Codec.nat fun w t => .ardVdpwin (field w 0 16) t,
  reads (Codec.byte.pair Codec.nat) fun w p => .awrVdpwin (field w 0 16) p.1 p.2,
  reads Codec.nat fun w t => .ardBankwin (field w 0 16) t,
  reads (Codec.byte.pair Codec.nat) fun w p => .awrBankwin (field w 0 16) p.1 p.2,
  reads Codec.nat fun w t => .ardNone (field w 0 16) t,
  reads (Codec.byte.pair Codec.nat) fun w p => .awrNone (field w 0 16) p.1 p.2]

/-- ENGINE, ACK, SCHED, VDPCALL, HOST (R142 to R146). -/
def readersEngine : List Reader := [
  reads (Codec.device.pair Codec.nat) fun _ p => .execute p.1 p.2,
  reads Codec.unit fun _ _ => .ackV,
  reads Codec.unit fun _ _ => .ackH,
  reads Codec.unit fun w _ => .ackSpurious (field w 0 3),
  reads Codec.unit fun _ _ => .runframe,
  reads Codec.unit fun _ _ => .framestart,
  reads Codec.unit fun _ _ => .linestep,
  reads Codec.unit fun _ _ => .padtimeout,
  reads Codec.unit fun _ _ => .padsample,
  reads Codec.unit fun _ _ => .timerstep,
  reads Codec.unit fun _ _ => .hstep,
  reads Codec.unit fun _ _ => .slices,
  reads Codec.unit fun _ _ => .snapshot,
  reads Codec.unit fun _ _ => .vblankboundary,
  reads (Codec.device.pair Codec.nat) fun _ p => .runto p.1 p.2,
  reads Codec.unit fun _ _ => .frameend,
  reads Codec.int fun _ n => .drawline n,
  reads Codec.unit fun _ _ => .timertick,
  reads Codec.unit fun _ _ => .finalize,
  reads Codec.unit fun _ _ => .soundframestart,
  reads Codec.nat fun _ n => .timerrebase n,
  reads Codec.image fun _ i => .hostLoad i,
  reads Codec.unit fun _ _ => .hostUnplug,
  reads Codec.codes fun _ l => .hostPatch l,
  reads Codec.unit fun _ _ => .hostReset,
  reads (Codec.word 4) fun _ v => .hostSetpad v,
  reads Codec.bit fun _ b => .hostSetmute b,
  reads Codec.bit fun _ b => .hostSetcancel b,
  reads Codec.bit fun _ b => .hostSetpal b]

/-- Every row's reader, in the order of the table. -/
def readerTable : List Reader :=
  readersBus ++ readersRegion ++ readersPort ++ readersSound ++ readersIo ++ readersCtrl ++ readersAux
    ++ readersEngine

/-- How many bytes the word of row `n` takes: the table's bits in whole bytes. -/
def rowBytes (n : Nat) : Nat := ((rowAt n).width + 7) / 8

/-- The bytes after the row's number: the word, its form, the operands, their ranges. -/
def decodeRow (n : Nat) (f : Reader) (bs : List Byte) : Except DecodeErr (Instr × List Byte) :=
  match takeWord (rowBytes n) 0 bs with
  | none => .error (.truncated n)
  | some (w, r) =>
    if fits n w then
      (match f w r with
      | none => .error (.truncated n)
      | some (i, r') => if i.wf then .ok (i, r') else .error (.illFormed n))
    else .error (.badWord n)

/-- The operation at the front of a byte string and what follows it, or why there is none. -/
def decode : List Byte → Except DecodeErr (Instr × List Byte)
  | [] => .error .empty
  | b :: bs =>
    match readerTable[b.toNat]? with
    | none => .error (.unknownRow b.toNat)
    | some f => decodeRow b.toNat f bs

/-- The operands of an operation that are no part of its word. -/
def operandBytes : Instr → List Byte
  | .rd8 x a => ((Codec.bits 3 24).pair Codec.ctx).put (a, x)
  | .rd16 x a => ((Codec.bits 3 24).pair Codec.ctx).put (a, x)
  | .wr8 x a v => ((Codec.bits 3 24).pair (Codec.byte.pair Codec.ctx)).put (a, v, x)
  | .wr16 x a v => ((Codec.bits 3 24).pair (Codec.half.pair Codec.ctx)).put (a, v, x)
  | .rd8Sram x _ => Codec.ctx.put x
  | .wr8Sram x _ v => (Codec.byte.pair Codec.ctx).put (v, x)
  | .rd8Rom x _ => Codec.ctx.put x
  | .wr8Rom x _ v => (Codec.byte.pair Codec.ctx).put (v, x)
  | .rd8Cartopen x _ => Codec.ctx.put x
  | .wr8Cartopen x _ v => (Codec.byte.pair Codec.ctx).put (v, x)
  | .rd8Zram x _ => Codec.ctx.put x
  | .wr8Zram x _ v => (Codec.byte.pair Codec.ctx).put (v, x)
  | .rd8Fm x _ => Codec.ctx.put x
  | .wr8Fm x _ v => (Codec.byte.pair Codec.ctx).put (v, x)
  | .rd8Banksel x _ => Codec.ctx.put x
  | .wr8Banksel x _ v => (Codec.byte.pair Codec.ctx).put (v, x)
  | .rd8Io x _ => Codec.ctx.put x
  | .wr8Io x _ v => (Codec.byte.pair Codec.ctx).put (v, x)
  | .rd8Sramctl x _ => Codec.ctx.put x
  | .wr8Sramctl x _ v => (Codec.byte.pair Codec.ctx).put (v, x)
  | .rd8Vdp x _ => Codec.ctx.put x
  | .wr8Vdp x _ v => (Codec.byte.pair Codec.ctx).put (v, x)
  | .rd8Ram x _ => Codec.ctx.put x
  | .wr8Ram x _ v => (Codec.byte.pair Codec.ctx).put (v, x)
  | .rd8Open x _ => Codec.ctx.put x
  | .wr8Open x _ v => (Codec.byte.pair Codec.ctx).put (v, x)
  | .rd16Vdpdata x _ => Codec.ctx.put x
  | .wr16Vdpdata x _ v => (Codec.half.pair Codec.ctx).put (v, x)
  | .rd16Vdpctrl x _ => Codec.ctx.put x
  | .wr16Vdpctrl x _ v => (Codec.half.pair Codec.ctx).put (v, x)
  | .rd8Vdpdata x _ => Codec.ctx.put x
  | .wr8Vdpdata x _ v => (Codec.byte.pair Codec.ctx).put (v, x)
  | .rd8Vdpctrl x _ => Codec.ctx.put x
  | .wr8Vdpctrl x _ v => (Codec.byte.pair Codec.ctx).put (v, x)
  | .rd8Psg x _ => Codec.ctx.put x
  | .wr8Psg x _ v => (Codec.byte.pair Codec.ctx).put (v, x)
  | .rd8Vdpnone x _ => Codec.ctx.put x
  | .wr8Vdpnone x _ v => (Codec.byte.pair Codec.ctx).put (v, x)
  | .wr8FmAddr0 x _ v => (Codec.byte.pair Codec.ctx).put (v, x)
  | .wr8FmData0 x _ v => (Codec.byte.pair Codec.ctx).put (v, x)
  | .wr8FmAddr1 x _ v => (Codec.byte.pair Codec.ctx).put (v, x)
  | .wr8FmData1 x _ v => (Codec.byte.pair Codec.ctx).put (v, x)
  | .rd8FmAny x _ => Codec.ctx.put x
  | .fmregMode x v => (Codec.byte.pair Codec.ctx).put (v, x)
  | .fmregDacdata x v => (Codec.byte.pair Codec.ctx).put (v, x)
  | .fmregDacen x v => (Codec.byte.pair Codec.ctx).put (v, x)
  | .fmregTaHi x v => (Codec.byte.pair Codec.ctx).put (v, x)
  | .fmregTaLo x v => (Codec.byte.pair Codec.ctx).put (v, x)
  | .fmregTb x v => (Codec.byte.pair Codec.ctx).put (v, x)
  | .fmregOther x _ _ v => (Codec.byte.pair Codec.ctx).put (v, x)
  | .modeValue x _ => Codec.ctx.put x
  | .dacenValue x _ => Codec.ctx.put x
  | .dacdataValue x _ => Codec.ctx.put x
  | .psgValue x _ => Codec.ctx.put x
  | .ioVersion k => Codec.access.put k
  | .ioData0 k => Codec.access.put k
  | .ioData1 k => Codec.access.put k
  | .ioData2 k => Codec.access.put k
  | .ioCtrl0 k => Codec.access.put k
  | .ioCtrl1 k => Codec.access.put k
  | .ioCtrl2 k => Codec.access.put k
  | .ioSer0 k => Codec.access.put k
  | .ioSer1 k => Codec.access.put k
  | .ioSer2 k => Codec.access.put k
  | .ioSer3 k => Codec.access.put k
  | .ioSer4 k => Codec.access.put k
  | .ioSer5 k => Codec.access.put k
  | .ioSer6 k => Codec.access.put k
  | .ioSer7 k => Codec.access.put k
  | .ioSer8 k => Codec.access.put k
  | .ioEven _ k => Codec.access.put k
  | .sramctlValue _ => []
  | .bankselValue _ => []
  | .regset _ _ _ => []
  | .cmd1 _ _ => []
  | .cmd2 _ _ _ _ => []
  | .command _ => []
  | .modeVramRd _ => []
  | .modeVramWr _ => []
  | .modeCramWr _ => []
  | .modeVsramRd _ => []
  | .modeVsramWr _ => []
  | .modeCramRd _ => []
  | .modeInvalid _ => []
  | .dmaflag _ => []
  | .dmaBus _ => []
  | .dmaFill _ b => Codec.byte.put b
  | .dmaCopy _ => []
  | .dmastart => []
  | .vdataWr _ => []
  | .vdataRd => []
  | .vstat => []
  | .ardZram _ t => Codec.nat.put t
  | .awrZram _ v t => (Codec.byte.pair Codec.nat).put (v, t)
  | .ardFm _ t => Codec.nat.put t
  | .awrFm _ v t => (Codec.byte.pair Codec.nat).put (v, t)
  | .ardBanksel _ t => Codec.nat.put t
  | .awrBanksel _ v t => (Codec.byte.pair Codec.nat).put (v, t)
  | .ardVdpwin _ t => Codec.nat.put t
  | .awrVdpwin _ v t => (Codec.byte.pair Codec.nat).put (v, t)
  | .ardBankwin _ t => Codec.nat.put t
  | .awrBankwin _ v t => (Codec.byte.pair Codec.nat).put (v, t)
  | .ardNone _ t => Codec.nat.put t
  | .awrNone _ v t => (Codec.byte.pair Codec.nat).put (v, t)
  | .execute d budget => (Codec.device.pair Codec.nat).put (d, budget)
  | .ackV => []
  | .ackH => []
  | .ackSpurious _ => []
  | .runframe => []
  | .framestart => []
  | .linestep => []
  | .padtimeout => []
  | .padsample => []
  | .timerstep => []
  | .hstep => []
  | .slices => []
  | .snapshot => []
  | .vblankboundary => []
  | .runto d target => (Codec.device.pair Codec.nat).put (d, target)
  | .frameend => []
  | .drawline n => Codec.int.put n
  | .timertick => []
  | .finalize => []
  | .soundframestart => []
  | .timerrebase frameUs => Codec.nat.put frameUs
  | .hostLoad image => Codec.image.put image
  | .hostUnplug => []
  | .hostPatch codes => Codec.codes.put codes
  | .hostReset => []
  | .hostSetpad w => (Codec.word 4).put w
  | .hostSetmute b => Codec.bit.put b
  | .hostSetcancel b => Codec.bit.put b
  | .hostSetpal b => Codec.bit.put b

/-- The bytes of an operation: the row's number, the row's word, the operands. -/
def encode (i : Instr) : List Byte :=
  BitVec.ofNat 8 (rowOf i) :: (putWord (rowBytes (rowOf i)) (rowWord i) ++ operandBytes i)

/-- The rows a table word of `nbits` bits is tried as, in order (log 4): a row that names the word outright before one
that names fewer of its bits; of rows that name the same bits, the read before the write and the word before the byte. -/
def trialRows (nbits : Nat) : List Nat :=
  if nbits = 8 then [106, 105, 0, 1, 2, 3, 107, 86, 87, 85, 50]
  else if nbits = 16 then [43, 44, 45, 46, 47, 48, 91, 73, 98, 96, 94, 100, 92, 102, 49, 74, 75, 89]
  else if nbits = 24 then
    [54, 55, 56, 57, 58, 59, 60, 61, 62, 63, 64, 65, 66, 67, 68, 69, 18, 34, 70, 26, 28, 36, 38, 39, 40, 41, 20, 14,
      10, 12, 16, 22, 6, 24]
  else if nbits = 32 then [84, 78, 79, 80, 81, 82, 77, 83, 76]
  else if nbits = 0 then [88]
  else []

/-- A packet of row `n` with word `w`, its operands zero. -/
def tablePacket (n : Nat) (w : BitVec 32) : List Byte :=
  BitVec.ofNat 8 n :: (putWord (rowBytes n) w ++ List.replicate 11 0)

/-- The first row of a list that the word has the form of. -/
def trialRow (w : BitVec 32) : List Nat → Option Nat
  | [] => none
  | n :: r => if fits n w then some n else trialRow w r

/-- The packet of a table word: that of the first row it has the form of, operands zero (log 4). -/
def packetOfTableWord (nbits w : Nat) : List Byte :=
  match trialRow (BitVec.ofNat 32 w) (trialRows nbits) with
  | some n => tablePacket n (BitVec.ofNat 32 w)
  | none => []

/-- The operation the decoder reads from a word of the opcode table. -/
def decodeTableWord (nbits w : Nat) : Option Instr :=
  match decode (packetOfTableWord nbits w) with
  | .ok (i, _) => some i
  | .error _ => none

end Sys2Proof
end

