-- ==== Sys2Proof/Machine/Flags.lean ====
section
/-! DEFINITION. Flag computations: the status word, the interrupt level, the dirty bits, the timers' overflow bits. -/

namespace Sys2Proof.Machine

/-- The status word a control-port read returns (42_vdp_ports_dma.md R332). -/
def statusWord (v : Vdp) (s : Std) : Half :=
  2#8 ++ BitVec.ofBool v.stF ++ 0#3 ++ BitVec.ofBool v.stVblank ++ BitVec.ofBool v.stHblank ++ 0#1
    ++ BitVec.ofBool (s = .pal)

/-- `ipl()`, the interrupt level the MAIN engine sees (60_exceptions.md R554). -/
def ipl (s : State) : Nat :=
  if s.sched.irqV && vintEn s.vdp then s.cfg.vintLevel
  else if s.sched.irqH && hintEn s.vdp then s.cfg.hintLevel
  else 0

/-- `VECTOR(level)`, the vector an acknowledge returns, 8 bits of it (00_scope.md R16, R556; log 33 for a level beyond
231). -/
def vectorOf (level : Nat) : Byte := BitVec.ofNat 8 (24 + level)

/-- Mark the 256-byte VRAM region of byte `A` and the sprite order as changed (R340). -/
def dirtyVramAt (A : Nat) (v : Vdp) : Vdp :=
  { v with dirtyVram := Memory.put false v.dirtyVram (A / 256) true, dirtySprite := true }

/-- Mark colour entry `e` and the palette as changed (R341). -/
def dirtyCramAt (e : Nat) (v : Vdp) : Vdp :=
  { v with dirtyCram := Memory.put false v.dirtyCram e true, dirtyPalette := true }

/-- The toggle line of I/O port `p` (40_bus_operations.md R226). -/
def thLine (b : Bus) (p : Nat) : Bool :=
  (Memory.get 0x7F b.ioData p).getLsbD 6 || !(Memory.get 0 b.ioCtrl p).getLsbD 6

/-- The overflow byte with a timer's flag set or cleared (44_sound_timer_dac.md R434, R438). -/
def setOverflow (tover : Byte) (t : TimerId) (on : Bool) : Byte :=
  if on then tover ||| BitVec.ofNat 8 (2 ^ timerBit t) else tover &&& ~~~(BitVec.ofNat 8 (2 ^ timerBit t))

/-- `sat16`, the saturation of the PCM mix (00_scope.md R19). -/
def sat16 (x : Int) : Int := max (-32768) (min 32767 x)

end Sys2Proof.Machine
end

