-- ==== Sys2Proof/Machine/Ops.lean ====
section
/-! DEFINITION. The operations every meaning shares: updates of one group of State, the guard every operation passes,
recording a fault, raising and acknowledging the two interrupts, sampling the mailbox. -/

namespace Sys2Proof.Machine

/-- State with its scheduler group replaced. -/
def setSched (s : State) (x : Sched) : State := { s with sched := x }

/-- State with its bus group replaced. -/
def setBus (s : State) (x : Bus) : State := { s with bus := x }

/-- State with its VDP group replaced. -/
def setVdp (s : State) (x : Vdp) : State := { s with vdp := x }

/-- State with its sound group replaced. -/
def setSnd (s : State) (x : Snd) : State := { s with snd := x }

/-- State with its mailbox replaced. -/
def setHost (s : State) (x : Mailbox) : State := { s with host := x }

/-- State with the response of the operation set (R140 to R143). -/
def reply (r : Resp) (s : State) : State := { s with resp := r }

/-- The response a byte read gives (R140). -/
def replyByte (p : Byte × State) : State := reply (.byte p.1) p.2

/-- The response a word read gives (R140). -/
def replyWord (p : Half × State) : State := reply (.word p.1) p.2

/-- The instance can run operations: its configuration is well formed and no fault is recorded (R18, R570). -/
def State.ready (s : State) : Prop := s.cfg.wf = true ∧ s.fault = none

/-- Every operation passes this guard: an ill-formed configuration and a recorded fault refuse it (R570, R264). -/
def guarded (s : State) (f : State → State) : Host.Outcome State Fault Refusal :=
  if s.cfg.wf then (match s.fault with
    | none => .next (f s)
    | some _ => .refused .afterFault)
  else .refused .illFormedCfg

/-- The guard of LOAD, UNPLUG, PATCH and RESET: outside a frame only (45_cartridge_host.md R470). -/
def guardedHost (s : State) (f : State → State) : Host.Outcome State Fault Refusal :=
  if s.cfg.wf then (match s.fault with
    | none => if s.sched.inFrame then .refused .insideFrame else .next (f s)
    | some _ => .refused .afterFault)
  else .refused .illFormedCfg

/-- `fault F` (00_scope.md R20, 60_exceptions.md R570): the record is set and keeps its first value (R61). -/
def raiseFault (f : Fault) (s : State) : State := { s with fault := some (s.fault.getD f) }

/-- Go on with `f` unless a fault is recorded: a fault ends the run at once (41_frame_scheduler.md R281). -/
def proceed (s : State) (f : State → State) : State := if s.fault = none then f s else s

/-- `raise Irq(H)` (R552). -/
def raiseIrqH (s : State) : State := setSched s { s.sched with irqH := true }

/-- `raise Irq(V)` (R553). -/
def raiseIrqV (s : State) : State := setSched s { s.sched with irqV := true }

/-- `IntAck(n)` (R556): the vector returned, and the latch and status bit it clears. -/
def intAck (n : Nat) (s : State) : Byte × State :=
  if n = s.cfg.vintLevel && s.sched.irqV && vintEn s.vdp then
    (vectorOf s.cfg.vintLevel,
      setVdp (setSched s { s.sched with irqV := false }) { s.vdp with stF := false })
  else if n = s.cfg.hintLevel && s.sched.irqH && hintEn s.vdp then
    (vectorOf s.cfg.hintLevel, setSched s { s.sched with irqH := false })
  else (24, s)

/-- The response an acknowledge gives (R143). -/
def replyAck (p : Byte × State) : State := reply (.vector p.1) p.2

/-- A sample of a mailbox location (20_memory.md R130, log 7): a write of the host that waits, if there is one, then the
value; with nothing waiting, the value of a held location, and of another one a free value, which it then holds. -/
def sampleCell {α : Type} (draw : Nat → α) (c : Cell α) : α × Cell α :=
  match c.coming with
  | none :: r => (c.value, { c with coming := r })
  | some v :: r => (v, { c with value := v, coming := r })
  | [] => if c.held then (c.value, c) else (draw c.draws, { c with value := draw c.draws, draws := c.draws + 1 })

/-- `sample(host.pad_word)` (41_frame_scheduler.md R268). -/
def samplePad (s : State) : BitVec 32 × State :=
  let r := sampleCell Config.padDraw s.host.pad
  (r.1, setHost s { s.host with pad := r.2 })

/-- `sample(host.mute)` (44_sound_timer_dac.md R452). -/
def sampleMute (s : State) : Bool × State :=
  let r := sampleCell (Config.flagDraw .mute) s.host.mute
  (r.1, setHost s { s.host with mute := r.2 })

/-- `sample(host.cancel)` (R264). -/
def sampleCancel (s : State) : Bool × State :=
  let r := sampleCell (Config.flagDraw .cancel) s.host.cancel
  (r.1, setHost s { s.host with cancel := r.2 })

/-- `sample(host.pal)` (R266). -/
def samplePal (s : State) : Bool × State :=
  let r := sampleCell (Config.flagDraw .pal) s.host.pal
  (r.1, setHost s { s.host with pal := r.2 })

/-- A write of the host thread to its mailbox (45_cartridge_host.md R486). -/
def hostSet (h : HostSet) (m : Mailbox) : Mailbox :=
  match h with
  | .pad w => { m with pad := { m.pad with value := w } }
  | .mute b => { m with mute := { m.mute with value := b } }
  | .cancel b => { m with cancel := { m.cancel with value := b } }
  | .pal b => { m with pal := { m.pal with value := b } }

end Sys2Proof.Machine
end

