-- ==== Sys2Proof/Machine/VdpOps.lean ====
section
/-! DEFINITION. The port side of the VDP that needs no bus (42_vdp_ports_dma.md): the primitive writers, the data unit,
the data and status reads, and the two DMA modes inside video RAM. -/

namespace Sys2Proof.Machine

/-- `VramPut(A, v)` for `A` in `[0, VRAM_SIZE-1]` (R340). Where `VRAM_SIZE` is 0 there is no such `A`, and only the bit
that belongs to no region is left to set (log 30). -/
def vramPut (c : Cfg) (A : Nat) (x : Byte) (v : Vdp) : Vdp :=
  if A < c.vramSize then dirtyVramAt A { v with vram := Memory.put 0 v.vram A x } else { v with dirtySprite := true }

/-- `CramPut(e, d)` for `e` in `[0, CRAM_N-1]` (R341); log 30 where `CRAM_N` is 0. -/
def cramPut (c : Cfg) (e : Nat) (d : Half) (v : Vdp) : Vdp :=
  if e < c.cramN then dirtyCramAt e { v with cram := Memory.put 0 v.cram e d } else { v with dirtyPalette := true }

/-- Byte `A` of VRAM; a free value where `VRAM_SIZE` is 0 (log 30). -/
def vramGet (c : Cfg) (v : Vdp) (A : Nat) : Byte :=
  if A < c.vramSize then Memory.get 0 v.vram A else Config.noVram A

/-- Entry `e` of CRAM; a free value where `CRAM_N` is 0 (log 30). -/
def cramGet (c : Cfg) (v : Vdp) (e : Nat) : Half :=
  if e < c.cramN then Memory.get 0 v.cram e else Config.noCram e

/-- `VsramPut(e, d)` (R342): no dirty bit. -/
def vsramPut (e : Nat) (d : Half) (v : Vdp) : Vdp := { v with vsram := Memory.put 0 v.vsram e d }

/-- A register written without a dirty bit, as DMA completion writes it (R344, R358). -/
def vregRaw (r : Nat) (d : Byte) (v : Vdp) : Vdp := { v with vr := Memory.put 0 v.vr r d }

/-- `RegPut(r, d)` (R343): both global dirty bits. -/
def regPut (r : BitVec 5) (d : Byte) (v : Vdp) : Vdp :=
  { vregRaw r.toNat d v with dirtyPalette := true, dirtySprite := true }

/-- `AutoInc()` (R336). -/
def autoInc (v : Vdp) : Vdp := { v with addr := v.addr + (vreg v 15).setWidth 16 }

/-- What a data word does at its target, before the auto-increment (R335, 30_encoding.md R160). -/
def dataPut (c : Cfg) (d : Half) (v : Vdp) : Vdp :=
  match modeOf v.code with
  | .vramWr => vramPut c (vramIx c v ^^^ 1) (loByte d) (vramPut c (vramIx c v) (hiByte d) v)
  | .cramWr => cramPut c (entryIx v % c.cramN) d v
  | .vsramWr => if entryIx v < c.vsramN then vsramPut (entryIx v) d v else v
  | .vramRd | .vsramRd | .cramRd | .invalid => v

/-- `DataUnit(d)` (R335). -/
def dataUnit (c : Cfg) (d : Half) (v : Vdp) : Vdp := autoInc (dataPut c d v)

/-- The value a data-port read returns (R338). -/
def dataGet (c : Cfg) (v : Vdp) : Half :=
  match modeOf v.code with
  | .vramRd => wordOf (vramGet c v (vramIx c v / 2 * 2)) (vramGet c v (vramIx c v / 2 * 2 + 1))
  | .cramRd => cramGet c v (entryIx v % c.cramN)
  | .vsramRd => if entryIx v < c.vsramN then Memory.get 0 v.vsram (entryIx v) else 0
  | .vramWr | .cramWr | .vsramWr | .invalid => 0

/-- `VdpDataRead16()` (R338). -/
def vdpDataRead16 (c : Cfg) (v : Vdp) : Half × Vdp :=
  (dataGet c { v with pend := false }, autoInc { v with pend := false })

/-- `VdpCtrlRead16()` (R332). -/
def vdpCtrlRead16 (s : Std) (v : Vdp) : Half × Vdp :=
  (statusWord v s, { v with pend := false })

/-- The units of a fill (R356). -/
def fillLoop (c : Cfg) (b : Byte) : Nat → Vdp → Vdp
  | 0, v => v
  | n + 1, v => fillLoop c b n (autoInc (vramPut c ((v.addr ^^^ 1).toNat % c.vramSize) b v))

/-- The length registers after a DMA that ran (R358). -/
def clearDmaLen (v : Vdp) : Vdp := vregRaw 20 0 (vregRaw 19 0 v)

/-- The source registers after a bus transfer or a copy (R358). -/
def putDmaSrc (lo : Half) (v : Vdp) : Vdp := vregRaw 22 (hiByte lo) (vregRaw 21 (loByte lo) v)

/-- `DmaFill(b)` with the registers it leaves (R356, R358). -/
def dmaFill (c : Cfg) (b : Byte) (v : Vdp) : Vdp := clearDmaLen (fillLoop c b (dmaLen v) v)

/-- The units of a copy from source address `src` (R357): the last source address and the VDP. -/
def copyLoop (c : Cfg) : Nat → Half → Vdp → Half × Vdp
  | 0, src, v => (src, v)
  | n + 1, src, v =>
    copyLoop c n (src + 1) (autoInc (vramPut c (vramIx c v) (vramGet c v (src.toNat % c.vramSize)) v))

/-- `DmaCopy()` with the registers it leaves (R357, R358). -/
def dmaCopy (c : Cfg) (v : Vdp) : Vdp :=
  let r := copyLoop c (dmaLen v) (dmaSrc v) v
  putDmaSrc r.1 (clearDmaLen r.2)

/-- `VdpDataWrite16(d)` (R334): the word, then an armed fill. -/
def vdpDataWrite16 (c : Cfg) (d : Half) (v : Vdp) : Vdp :=
  let v1 := dataUnit c d { v with pend := false }
  if v1.fillArmed then
    let v2 := { v1 with fillArmed := false }
    if modeOf v2.code = .vramWr then dmaFill c (hiByte d) v2 else v2
  else v1

end Sys2Proof.Machine
end

