-- ==== Sys2Proof/Machine/DrawOps.lean ====
section
/-! DEFINITION. The compositor (43_vdp_compositor.md): colours, the two caches, the six passes, one line; and the
reference layer functions (46_vdp_reference_formats.md). -/

namespace Sys2Proof.Machine

/-- `Exp3(k)`: three bits widened to eight (R383). -/
def exp3 (k : BitVec 3) : Byte := k ++ k ++ field k 1 2

/-- `Rgb888(c)`, red first (R383). -/
def rgb888 (c : Half) : Byte × Byte × Byte :=
  (exp3 (field c 1 3), exp3 (field c 5 3), exp3 (field c 9 3))

/-- `PixelOf(i, c)`: the bytes of one output pixel, in frame-buffer order (R384). A one-byte pixel holds the index; how
an index beyond 255 becomes one byte no rule says: a free value (log 31). -/
def pixelOf (bpp i : Nat) (c : Half) : List Byte :=
  let (r, g, b) := rgb888 c
  match bpp with
  | 1 => [if i < 256 then BitVec.ofNat 8 i else Config.wideIndex i]
  | 2 =>
    let v : Half := field r 3 5 ++ field g 2 6 ++ field b 3 5
    [loByte v, hiByte v]
  | 3 => [r, g, b]
  | _ => [r, g, b, 0]

/-- Every entry of the palette cache as it should be, in order (10_state.md R55). -/
def paletteBytes (c : Cfg) (v : Vdp) : List Byte :=
  (List.range c.cramN).flatMap fun i => pixelOf c.bpp i (Memory.get 0 v.cram i)

/-- `RebuildPalette()` (R386). -/
def rebuildPalette (c : Cfg) (v : Vdp) : Vdp :=
  { v with palCache := Memory.ofList 0 0 (paletteBytes c v), dirtyCram := [], dirtyPalette := false }

/-- The link of sprite entry `i` (R390). -/
def spriteLink (c : Cfg) (v : Vdp) (i : Nat) : Nat :=
  (field (vramGet c v ((satBase v % c.vramSize + 8 * i + 3) % c.vramSize)) 0 7).toNat

/-- The traversal from entry `i`, at most as many entries as the first argument says (R390). -/
def spriteChain (c : Cfg) (v : Vdp) : Nat → Nat → List Nat
  | 0, _ => []
  | n + 1, i =>
    let k := spriteLink c v i
    if k = 0 ∨ c.satMax ≤ k then [i] else i :: spriteChain c v n k

/-- `SpriteOrder(vram, VR)` (R390). -/
def spriteOrder (c : Cfg) (v : Vdp) : List Nat := spriteChain c v Cfg.spriteCap 0

/-- `RebuildSprites()` (R392). -/
def rebuildSprites (c : Cfg) (v : Vdp) : Vdp :=
  { v with sprOrder := spriteOrder c v, dirtyVram := [], dirtySprite := false }

/-- The rebuilds a drawn line asks for (R400): each cache only when its dirty bit is set. -/
def refreshCaches (c : Cfg) (v : Vdp) : Vdp :=
  let v1 := if v.dirtyPalette then rebuildPalette c v else v
  if v1.dirtySprite then rebuildSprites c v1 else v1

/-- A byte of VRAM, the address wrapped (46_vdp_reference_formats.md R514, R532). -/
def vramByte (c : Cfg) (v : Vdp) (A : Nat) : Byte := vramGet c v (A % c.vramSize)

/-- `Word(A)` (R514). -/
def vramWord (c : Cfg) (v : Vdp) (A : Nat) : Half := wordOf (vramByte c v A) (vramByte c v (A + 1))

/-- `TilePix(T, tx, ty)` (R516). -/
def tilePix (c : Cfg) (v : Vdp) (T tx ty : Nat) : BitVec 4 :=
  let b := vramByte c v (32 * T + 4 * ty + tx / 2)
  if tx % 2 = 0 then field b 4 4 else field b 0 4

/-- `CellPix(e, px, py)` (R518). -/
def cellPix (c : Cfg) (v : Vdp) (e : Half) (px py : Nat) : BitVec 6 × Bool :=
  let tx := if e.getLsbD 11 then 7 - px else px
  let ty := if e.getLsbD 12 then 7 - py else py
  (field e 13 2 ++ tilePix c v (field e 0 11).toNat tx ty, e.getLsbD 15)

/-- `HScroll(q, y)` (R519). -/
def hScroll (c : Cfg) (v : Vdp) (q y : Nat) : Nat :=
  let m := (field (vreg v 11) 0 2).toNat
  let row := if m = 3 then y else if m = 2 then y / 8 * 8 else 0
  (field (vramWord c v ((field (vreg v 13) 0 6).toNat * 1024 + 4 * row + 2 * q)) 0 10).toNat

/-- `VScroll(q, x)` (R519). -/
def vScroll (c : Cfg) (v : Vdp) (q x : Nat) : Nat :=
  let col := if (vreg v 11).getLsbD 2 then x / 16 else 0
  let k := 2 * col + q
  if k < c.vsramN then (field (Memory.get 0 v.vsram k) 0 10).toNat else 0

/-- A plane's size code in cells (R510). -/
def planeCells (k : BitVec 2) : Nat := if k = 1 then 64 else if k = 3 then 128 else 32

/-- `PlanePixel(q, base, x, y)` (R520). -/
def planePixel (c : Cfg) (v : Vdp) (q base x y : Nat) : BitVec 6 × Bool :=
  let wc := planeCells (field (vreg v 16) 0 2)
  let hc := planeCells (field (vreg v 16) 4 2)
  let px := (((x : Int) - (hScroll c v q y : Int)) % ((8 * wc : Nat) : Int)).toNat
  let py := (y + vScroll c v q x) % (8 * hc)
  let e := vramWord c v (base + 2 * (py / 8 * wc + px / 8))
  cellPix c v e (px % 8) (py % 8)

/-- `BgPixel(S, x, y)` (R381): the reference function (R520), or the configuration's. -/
def bgPixel (c : Cfg) (v : Vdp) (x y : Nat) : BitVec 6 × Bool :=
  match c.layers with
  | none => planePixel c v 1 ((field (vreg v 4) 0 3).toNat * 8192) x y
  | some k => Config.bgPixel k v.vr v.vram v.vsram x y

/-- `InWindow(x, y)` (R522). -/
def inWindow (v : Vdp) (x y : Nat) : Bool :=
  let yb := 8 * (field (vreg v 18) 0 5).toNat
  let xb := 16 * (field (vreg v 17) 0 5).toNat
  let inV : Bool := if (vreg v 18).getLsbD 7 then yb ≤ y else y < yb
  let inH : Bool := if (vreg v 17).getLsbD 7 then xb ≤ x else x < xb
  inV || inH

/-- `WindowPixel(x, y)` (R522). -/
def windowPixel (c : Cfg) (v : Vdp) (x y : Nat) : BitVec 6 × Bool :=
  let wide := lineW c v = 320
  let ww := if wide then 64 else 32
  let base := (vreg v 3 &&& (if wide then 0x3C else 0x3E)).toNat * 1024
  cellPix c v (vramWord c v (base + 2 * (y / 8 * ww + x / 8))) (x % 8) (y % 8)

/-- `FgPixel(S, x, y)` (R381): the reference function (R524), or the configuration's. -/
def fgPixel (c : Cfg) (v : Vdp) (x y : Nat) : BitVec 6 × Bool :=
  match c.layers with
  | none =>
    if inWindow v x y then windowPixel c v x y
    else planePixel c v 0 ((field (vreg v 2) 3 3).toNat * 8192) x y
  | some k => Config.fgPixel k v.vr v.vram v.vsram x y

/-- The reference `SprPixel(S, i, x, y)` (R530, R532). -/
def spriteCellPixel (c : Cfg) (v : Vdp) (i x y : Nat) : Option (BitVec 6 × Bool) :=
  let E := satBase v + 8 * i
  let wc := (field (vramByte c v (E + 2)) 2 2).toNat + 1
  let hc := (field (vramByte c v (E + 2)) 0 2).toNat + 1
  let dx : Int := x - ((field (vramWord c v (E + 6)) 0 9).toNat - 128 : Int)
  let dy : Int := y - ((field (vramWord c v E) 0 10).toNat - 128 : Int)
  if dx < 0 ∨ (8 * wc : Nat) ≤ dx ∨ dy < 0 ∨ (8 * hc : Nat) ≤ dy then none
  else
    let a := vramWord c v (E + 4)
    let px := if a.getLsbD 11 then 8 * wc - 1 - dx.toNat else dx.toNat
    let py := if a.getLsbD 12 then 8 * hc - 1 - dy.toNat else dy.toNat
    let T := ((field a 0 11).toNat + px / 8 * hc + py / 8) % 2048
    some (field a 13 2 ++ tilePix c v T (px % 8) (py % 8), a.getLsbD 15)

/-- `SprPixel(S, i, x, y)` (R381): the reference function (R532), or the configuration's. -/
def sprPixel (c : Cfg) (v : Vdp) (i x y : Nat) : Option (BitVec 6 × Bool) :=
  match c.layers with
  | none => spriteCellPixel c v i x y
  | some k => Config.sprPixel k v.vr v.vram v.vsram i x y

/-- A colour index whose low four bits are 0: an index-0 pixel (R381). -/
def isIndex0 (ci : BitVec 6) : Bool := field ci 0 4 = 0

/-- `SprPass(S, p, x, y, c)` for the sprites of a list, front-most first (R402): drawn from the last to the first. -/
def sprPass (spr : Nat → Option (BitVec 6 × Bool)) (p : Bool) : List Nat → BitVec 6 → BitVec 6
  | [], c => c
  | i :: rest, c =>
    let c1 := sprPass spr p rest c
    match spr i with
    | some (ci, pr) => if pr = p && !isIndex0 ci then ci else c1
    | none => c1

/-- `Composite` for the layer values of one pixel (R402): background and foreground colour and priority, the sprites'
values, the draw order and the background colour. -/
def compositeOf (bg fg : BitVec 6 × Bool) (spr : Nat → Option (BitVec 6 × Bool)) (order : List Nat)
    (bgc : BitVec 6) : BitVec 6 :=
  let c1 := if !bg.2 then (if isIndex0 bg.1 then bgc else bg.1) else bgc
  let c2 := if !fg.2 && !isIndex0 fg.1 then fg.1 else c1
  let c3 := sprPass spr false order c2
  let c4 := if bg.2 && !isIndex0 bg.1 then bg.1 else c3
  let c5 := if fg.2 && !isIndex0 fg.1 then fg.1 else c4
  sprPass spr true order c5

/-- `Composite(x, y)` with the layer functions of the configuration (R402). -/
def composite (c : Cfg) (v : Vdp) (x y : Nat) : BitVec 6 :=
  compositeOf (bgPixel c v x y) (fgPixel c v x y) (fun i => sprPixel c v i x y) v.sprOrder (bgColour v)

/-- Entry `i` of the palette cache: `BPP` bytes (10_state.md R55); free values where `CRAM_N` is 0 (log 30). -/
def palEntry (c : Cfg) (v : Vdp) (i : Nat) : List Byte :=
  (List.range c.bpp).map fun k =>
    if i < c.cramN then Memory.get 0 v.palCache (i * c.bpp + k) else Config.noColour i k

/-- Pixels `x` and up of picture line `y`, as many as the last argument says, from a function of the position. -/
def putPixels (bpp : Nat) (px : Nat → List Byte) (y : Nat) : Nat → Nat → Mem → Mem
  | 0, _, fb => fb
  | n + 1, x, fb => putPixels bpp px y n (x + 1) (Memory.putList 0 fb ((y * Cfg.fbW + x) * bpp) (px x))

/-- The pixels of a line the frame buffer has a place for (10_state.md R38: its width is 320; log 34 for a wider line). -/
def drawnW (c : Cfg) (v : Vdp) : Nat := min (lineW c v) Cfg.fbW

/-- `DrawLine(n)` (R400): the VDP and the frame buffer after it. -/
def drawLine (c : Cfg) (s : Std) (n : Int) (v : Vdp) (fb : Mem) : Vdp × Mem :=
  if n < 0 ∨ (c.fbLines s : Int) ≤ n then (v, fb)
  else if dispEn v then
    let v1 := refreshCaches c v
    (v1, putPixels c.bpp (fun x => palEntry c v1 ((composite c v1 x n.toNat).toNat % c.cramN)) n.toNat
      (drawnW c v) 0 fb)
  else (v, putPixels c.bpp (fun _ => List.replicate c.bpp 0) n.toNat (drawnW c v) 0 fb)

/-- The bytes of the palette snapshot (41_frame_scheduler.md R276): 64 colours of four bytes. -/
def snapshotBytes (c : Cfg) (v : Vdp) : List Byte :=
  (List.range 64).flatMap fun i =>
    if i < c.cramN then
      let (r, g, b) := rgb888 (Memory.get 0 v.cram i)
      [r, g, b, 0]
    else [0, 0, 0, 0]

end Sys2Proof.Machine
end

