-- ==== Sys2Proof/Machine/SoundOps.lean ====
section
/-! DEFINITION. The sound-timer and DAC glue (44_sound_timer_dac.md), on the sound group. `now` is `now_us`. -/

namespace Sys2Proof.Machine

/-- `Forward(chip, b, r, v)` (R424). -/
def forward (now : Nat) (chip : Chip) (b : Nat) (r v : Byte) (x : Snd) : Snd :=
  { x with synthLog := x.synthLog ++ [.write chip b r v now] }

/-- `PsgWrite(v)` (R426). -/
def psgWrite (now : Nat) (v : Byte) (x : Snd) : Snd := forward now .psg 0 0 v x

/-- `SoundRead(p)`: the overflow byte at every port (R428). -/
def soundRead (x : Snd) (_p : BitVec 2) : Byte := x.tover

/-- `TA` (R430). -/
def timerAValue (x : Snd) : Nat := (fmReg x 0 0x24 ++ field (fmReg x 0 0x25) 0 2).toNat

/-- `TB` (R430). -/
def timerBValue (x : Snd) : Nat := (fmReg x 0 0x26).toNat

/-- The reference `TIMER_PERIOD_US(t, FM)` (R436). -/
def timerPeriodRef (x : Snd) : TimerId → Nat
  | .a => 18 * (1024 - timerAValue x)
  | .b => 288 * (256 - timerBValue x)

/-- `TIMER_PERIOD_US(t, FM)`, a parameter (00_scope.md R15): the reference one (R436), or the configuration's. -/
def timerPeriod (c : Cfg) (x : Snd) (t : TimerId) : Nat :=
  match c.timerPeriod with
  | none => timerPeriodRef x t
  | some k => Config.timerPeriod k (t = .b) x.fm

/-- The part of `ModeWrite` for one timer (R432). -/
def modeTimer (c : Cfg) (now : Nat) (old v : Byte) (t : TimerId) (x : Snd) : Snd :=
  if v.getLsbD (timerBit t) then
    if old.getLsbD (timerBit t) then x
    else timerSet x t ⟨true, timerPeriod c x t, now + timerPeriod c x t⟩
  else timerSet x t { timerGet x t with run := false }

/-- `Ack(v)` (R434). -/
def ackTimers (c : Cfg) (v : Byte) (x : Snd) : Snd :=
  let t1 := if v.getLsbD 4 = c.timerAckLevel then setOverflow x.tover .a false else x.tover
  { x with tover := if v.getLsbD 5 = c.timerAckLevel then setOverflow t1 .b false else t1 }

/-- `ModeWrite(old, v)` (R432). -/
def modeWrite (c : Cfg) (now : Nat) (old v : Byte) (x : Snd) : Snd :=
  ackTimers c v (modeTimer c now old v .b (modeTimer c now old v .a x))

/-- `Capture(v)` (R446). -/
def capture (c : Cfg) (now : Nat) (v : Byte) (x : Snd) : Snd :=
  let i := min now (c.dacBufLen - 1)
  if x.dacIdx < (i : Int) then
    let lo := (x.dacIdx + 1).toNat
    { x with
      dacBuf := Memory.put 0x80 (Memory.fill 0x80 x.dacBuf lo x.dacLast (i - lo)) i v
      dacIdx := i
      dacLast := v }
  else { x with dacBuf := Memory.put 0x80 x.dacBuf x.dacIdx.toNat v, dacLast := v }

/-- `DacEnable(v)` (R442). -/
def dacEnable (c : Cfg) (now : Nat) (v : Byte) (x : Snd) : Snd :=
  if v.getLsbD 7 then { x with dacEn := true }
  else if x.dacEn then { capture c now 0x80 x with dacEn := false } else x

/-- `DacData(v)` (R444). -/
def dacData (c : Cfg) (now : Nat) (v : Byte) (x : Snd) : Snd := if x.dacEn then capture c now v x else x

/-- A data-port write landing on register `r` of bank `b` (R422, after the register is known). -/
def soundRegWrite (c : Cfg) (now : Nat) (b : BitVec 1) (r v : Byte) (x : Snd) : Snd :=
  let old := fmReg x b.toNat r
  let x1 := { x with fm := Memory.put 0 x.fm (b.toNat * 256 + r.toNat) v }
  if b = 0 ∧ r = c.regMode then forward now .fm 0 r v (modeWrite c now old v x1)
  else if b = 0 ∧ r = c.regDacdata then dacData c now v x1
  else if b = 0 ∧ r = c.regDacen then dacEnable c now v x1
  else forward now .fm b.toNat r v x1

/-- `SoundWrite(p, v)` (R422). -/
def soundWrite (c : Cfg) (now : Nat) (p : BitVec 2) (v : Byte) (x : Snd) : Snd :=
  if p.getLsbD 0 then soundRegWrite c now (bit p 1) (Memory.get 0 x.fmSel (bit p 1).toNat) v x
  else { x with fmSel := Memory.put 0 x.fmSel (bit p 1).toNat v }

/-- The part of `TimerTick` for one timer (R438). -/
def tickTimer (now : Nat) (t : TimerId) (x : Snd) : Snd :=
  let m := timerGet x t
  if m.run && m.deadlineUs ≤ now then
    let d := m.deadlineUs + m.reloadUs
    { timerSet x t { m with deadlineUs := if d ≤ now then now + m.reloadUs else d } with
      tover := setOverflow x.tover t true }
  else x

/-- `TimerTick()` (R438). -/
def timerTick (now : Nat) (x : Snd) : Snd := tickTimer now .b (tickTimer now .a x)

/-- `SoundFrameStart()` (R450). -/
def soundFrameStart (x : Snd) : Snd := { x with dacIdx := -1 }

/-- A deadline moved into the next frame's time (R456). -/
def rebase (frameUs : Nat) (t : Timer) : Timer :=
  { t with deadlineUs := if frameUs < t.deadlineUs then t.deadlineUs - frameUs else 0 }

/-- `TimerRebase(frame_us)` (R456). -/
def timerRebase (frameUs : Nat) (x : Snd) : Snd :=
  { x with tmA := rebase frameUs x.tmA, tmB := rebase frameUs x.tmB }

/-- `DacSample(v)` (R454). -/
def dacSample (c : Cfg) (v : Byte) : Int := ((v.toNat : Int) - 0x80) * 2 ^ c.dacShift

/-- The hold to the end of the buffer at frame end (R452). -/
def holdToEnd (c : Cfg) (x : Snd) : Snd :=
  let lo := (x.dacIdx + 1).toNat
  { x with dacBuf := Memory.fill 0x80 x.dacBuf lo x.dacLast (c.dacBufLen - lo) }

/-- The sample block of a frame (R452): `N` samples of `PCM_CH` channels from the synthesizer's samples `syn`, the
captured buffer and the mute flag; `U` entries cover the frame. -/
def mixPcm (c : Cfg) (syn : Nat → Nat → Int) (buf : Mem) (U N : Nat) (mute : Bool) : List (List Int) :=
  (List.range N).map fun k =>
    (List.range c.pcmCh).map fun ch =>
      if mute then 0 else sat16 (syn k ch + dacSample c (Memory.get 0x80 buf (k * U / N)))

end Sys2Proof.Machine
end

