-- ==== Sys2Proof/Machine/BusOps.lean ====
section
/-! DEFINITION. The bus (40_bus_operations.md): what each region does on a read and on a write, the four main-bus
operations, the AUX port; and the VDP operations that reach the bus (bus DMA, commands, the control port). -/

namespace Sys2Proof.Machine

/-- `PadByte(p)` (R227). The expansion port, port 2, has no pad and reports 0x7F (R220), whatever `N_PADS` is; DEDUCED
(log 28): so does port 0 or 1 where it has no pad. -/
def padByte (c : Cfg) (latch : BitVec 32) (b : Bus) (p : Nat) : Byte :=
  if p < c.nPads ∧ p < 2 then
    let k := padBits latch p
    let ph := Memory.get 0 b.padPhase p
    let low : BitVec 6 :=
      if thLine b p then
        (if ph = 3 then field k 4 2 ++ bit k 11 ++ bit k 10 ++ bit k 9 ++ bit k 8 else field k 0 6)
      else if ph = 3 then bit k 7 ++ bit k 6 ++ 0b1111#4
      else if ph = 2 then bit k 7 ++ bit k 6 ++ 0#4
      else bit k 7 ++ bit k 6 ++ 0#2 ++ bit k 1 ++ bit k 0
    0#1 ++ BitVec.ofBool (thLine b p) ++ low
  else 0x7F

/-- The VERSION register (30_encoding.md R152, R220). -/
def ioVersionByte (c : Cfg) (s : Std) : Byte :=
  BitVec.ofBool c.regionOverseas ++ BitVec.ofBool (s = .pal) ++ 1#1 ++ 0#5

/-- A DATA register's value (R220): driven lines and bit 7 from the latch, the rest from the pad. -/
def ioDataByte (c : Cfg) (latch : BitVec 32) (b : Bus) (p : Nat) : Byte :=
  let m := Memory.get 0 b.ioCtrl p ||| 0x80
  (Memory.get 0x7F b.ioData p &&& m) ||| (padByte c latch b p &&& ~~~m)

/-- `IoRead(i)` (R220). -/
def ioRead (c : Cfg) (x : Sched) (b : Bus) (i : Nat) : Byte :=
  if i = 0 then ioVersionByte c x.std
  else if i ≤ 3 then ioDataByte c x.padLatch b (i - 1)
  else if i ≤ 6 then Memory.get 0 b.ioCtrl (i - 4)
  else Memory.get 0 b.ioSer (i - 7)

/-- `ThEdge(p, before, after)` (R226). -/
def thEdge (c : Cfg) (p : Nat) (before after : Bool) (b : Bus) : Bus :=
  if before = after then b
  else
    { b with
      padTimeout := Memory.put 0 b.padTimeout p 0
      padPhase :=
        if !before && after && sixButton c p then
          Memory.put 0 b.padPhase p (Memory.get 0 b.padPhase p + 1)
        else b.padPhase }

/-- An edge is looked for only on the ports that have a pad (R221). -/
def padEdge (c : Cfg) (p : Nat) (before : Bus) (b : Bus) : Bus :=
  if p < c.nPads then thEdge c p (thLine before p) (thLine b p) b else b

/-- `IoWrite(i, v)` (R221). -/
def ioWrite (c : Cfg) (i : Nat) (v : Byte) (b : Bus) : Bus :=
  if i = 0 then b
  else if i ≤ 3 then padEdge c (i - 1) b { b with ioData := Memory.put 0x7F b.ioData (i - 1) v }
  else if i ≤ 6 then padEdge c (i - 4) b { b with ioCtrl := Memory.put 0 b.ioCtrl (i - 4) v }
  else { b with ioSer := Memory.put 0 b.ioSer (i - 7) v }

/-- `BankShift(v)` (R218). -/
def bankShift (v : Byte) (b : Bus) : Bus := { b with bank := bit v 0 ++ field b.bank 1 8 }

/-- `SramCtlWrite(v)` (R224). -/
def sramCtlWrite (v : Byte) (b : Bus) : Bus :=
  if b.sram.present then { b with sram := { b.sram with active := v.getLsbD 0, wp := v.getLsbD 1 } } else b

/-- A byte of save RAM, by offset (R206). -/
def sramRead (b : Bus) (o : Nat) : Byte := Memory.get 0 b.sram.bytes o

/-- A write to save RAM, by offset; discarded while write-protected (R207). -/
def sramWrite (o : Nat) (v : Byte) (b : Bus) : Bus :=
  if b.sram.wp then b else { b with sram := { b.sram with bytes := Memory.put 0 b.sram.bytes o v } }

/-- A ROM byte, by offset (R204). -/
def romRead (b : Bus) (o : Nat) : Byte := Memory.get 0 b.rom o

/-- A general-RAM byte, by offset (R208). -/
def ramRead (b : Bus) (o : Nat) : Byte := Memory.get 0 b.ram o

/-- A write to general RAM (R209). -/
def ramWrite (o : Nat) (v : Byte) (b : Bus) : Bus := { b with ram := Memory.put 0 b.ram o v }

/-- A coprocessor-RAM byte, by offset (R210, R242). -/
def zramRead (b : Bus) (o : Nat) : Byte := Memory.get 0 b.zram o

/-- A write to coprocessor RAM (R211, R242). -/
def zramWrite (o : Nat) (v : Byte) (b : Bus) : Bus := { b with zram := Memory.put 0 b.zram o v }

/-- A word read of the VDP data port (R230). -/
def dataPortRead16 (s : State) : Half × State :=
  ((vdpDataRead16 s.cfg s.vdp).1, setVdp s (vdpDataRead16 s.cfg s.vdp).2)

/-- A word read of the VDP control port (R232). -/
def ctrlPortRead16 (s : State) : Half × State :=
  ((vdpCtrlRead16 s.sched.std s.vdp).1, setVdp s (vdpCtrlRead16 s.sched.std s.vdp).2)

/-- A byte read of the VDP data port: a whole word read, one lane of it (R231). -/
def dataPortRead8 (odd : Bool) (s : State) : Byte × State :=
  (lane odd (dataPortRead16 s).1, (dataPortRead16 s).2)

/-- A byte read of the VDP control port (R233). -/
def ctrlPortRead8 (odd : Bool) (s : State) : Byte × State :=
  (lane odd (ctrlPortRead16 s).1, (ctrlPortRead16 s).2)

/-- A byte read inside the VDP block (R200, R231 to R236). -/
def vdpBlockRead8 (a : Addr) (o : BitVec 5) (s : State) : Byte × State :=
  match vdpPort o with
  | .data => dataPortRead8 (o.getLsbD 0) s
  | .ctrl => ctrlPortRead8 (o.getLsbD 0) s
  | .psg | .none => (openBus a, s)

/-- A byte read inside the I/O block: registers on the odd lane only (R200, R220, R236). -/
def ioBlockRead8 (a : Addr) (o : BitVec 5) (s : State) : Byte × State :=
  if o.getLsbD 0 then (ioRead s.cfg s.sched s.bus (o.toNat / 2), s) else (openBus a, s)

/-- RD8 (R200). -/
def busRd8 (a : Addr) (s : State) : Byte × State :=
  match region s.cfg s.bus a with
  | .rom o => (romRead s.bus o, s)
  | .sram o => (sramRead s.bus o, s)
  | .ram o => (ramRead s.bus o, s)
  | .zram o => (zramRead s.bus o, s)
  | .fm p => (soundRead s.snd p, s)
  | .banksel => (openBus a, s)
  | .io o => ioBlockRead8 a o s
  | .sramctl => (openBus a, s)
  | .vdp o => vdpBlockRead8 a o s
  | .unmapped => (openBus a, s)

/-- Two byte reads, the high byte first (R201). -/
def splitRd16 (a : Addr) (s : State) : Half × State :=
  let r1 := busRd8 a s
  let r2 := busRd8 (a + 1) r1.2
  (wordOf r1.1 r2.1, r2.2)

/-- RD16 (R201): native at the VDP data and control ports, two byte reads elsewhere. -/
def busRd16 (a : Addr) (s : State) : Half × State :=
  match region s.cfg s.bus a with
  | .vdp o => (match vdpPort o with
    | .data => dataPortRead16 s
    | .ctrl => ctrlPortRead16 s
    | .psg | .none => splitRd16 a s)
  | _ => splitRd16 a s

/-- The units of a bus DMA (42_vdp_ports_dma.md R354): the last source counter and the state. -/
def dmaBusLoop (hi : BitVec 7) : Nat → Half → State → Half × State
  | 0, lo, s => (lo, s)
  | n + 1, lo, s =>
    let r := busRd16 (dmaAddr hi lo) s
    dmaBusLoop hi n (lo + 1) (setVdp r.2 (dataUnit r.2.cfg r.1 r.2.vdp))

/-- `DmaBus()` with the registers it leaves (R354, R358); `hi` is VR[23][6:0]. -/
def dmaBus (hi : BitVec 7) (s : State) : State :=
  let r := dmaBusLoop hi (dmaLen s.vdp) (dmaSrc s.vdp) s
  setVdp r.2 (putDmaSrc r.1 (clearDmaLen r.2.vdp))

/-- `DmaStart()` (R350). -/
def dmaStart (s : State) : State :=
  match dmaModeOf (vreg s.vdp 23) with
  | .bus => dmaBus (field (vreg s.vdp 23) 0 7) s
  | .fill => setVdp s { s.vdp with fillArmed := true }
  | .copy => setVdp s (dmaCopy s.cfg s.vdp)

/-- `Command(cmd32)` (R328). -/
def vdpCommand (w : CmdWord) (s : State) : State :=
  let s1 := setVdp s { s.vdp with code := cmdCode w, addr := cmdAddr w, fillArmed := false }
  if (cmdCode w).getLsbD 5 && dmaEn s.vdp then dmaStart s1 else s1

/-- `VdpCtrlWrite16(w)` (R324). -/
def ctrlPortWrite16 (w : Half) (s : State) : State :=
  if s.vdp.pend then vdpCommand (cmdFields (s.vdp.cmdHi ++ w)) (setVdp s { s.vdp with pend := false })
  else if field w 14 2 = 0b10 then setVdp s (regPut (field w 8 5) (field w 0 8) s.vdp)
  else setVdp s { s.vdp with cmdHi := w, pend := true }

/-- A word write of the VDP data port (R230, R334). -/
def dataPortWrite16 (d : Half) (s : State) : State := setVdp s (vdpDataWrite16 s.cfg d s.vdp)

/-- A write of the PSG port at time `now` (R235). -/
def psgPortWrite (now : Nat) (v : Byte) (s : State) : State := setSnd s (psgWrite now v s.snd)

/-- A write of an FM port at time `now` (R215). -/
def fmPortWrite (now : Nat) (p : BitVec 2) (v : Byte) (s : State) : State :=
  setSnd s (soundWrite s.cfg now p v s.snd)

/-- A byte write inside the VDP block: at the data and control ports the byte is on both lanes (R202, R231 to R237). -/
def vdpBlockWrite8 (now : Nat) (o : BitVec 5) (v : Byte) (s : State) : State :=
  match vdpPort o with
  | .data => dataPortWrite16 (wordOf v v) s
  | .ctrl => ctrlPortWrite16 (wordOf v v) s
  | .psg => psgPortWrite now v s
  | .none => s

/-- A byte write inside the I/O block (R202, R221, R237). -/
def ioBlockWrite8 (o : BitVec 5) (v : Byte) (s : State) : State :=
  if o.getLsbD 0 then setBus s (ioWrite s.cfg (o.toNat / 2) v s.bus) else s

/-- WR8 at time `now` (R202). -/
def busWr8 (now : Nat) (a : Addr) (v : Byte) (s : State) : State :=
  match region s.cfg s.bus a with
  | .rom _ => s
  | .sram o => setBus s (sramWrite o v s.bus)
  | .ram o => setBus s (ramWrite o v s.bus)
  | .zram o => setBus s (zramWrite o v s.bus)
  | .fm p => fmPortWrite now p v s
  | .banksel => setBus s (bankShift v s.bus)
  | .io o => ioBlockWrite8 o v s
  | .sramctl => setBus s (sramCtlWrite v s.bus)
  | .vdp o => vdpBlockWrite8 now o v s
  | .unmapped => s

/-- Two byte writes, the high byte first (R203). -/
def splitWr16 (now : Nat) (a : Addr) (v : Half) (s : State) : State :=
  busWr8 now (a + 1) (loByte v) (busWr8 now a (hiByte v) s)

/-- WR16 at time `now` (R203). -/
def busWr16 (now : Nat) (a : Addr) (v : Half) (s : State) : State :=
  match region s.cfg s.bus a with
  | .vdp o => (match vdpPort o with
    | .data => dataPortWrite16 v s
    | .ctrl => ctrlPortWrite16 v s
    | .psg | .none => splitWr16 now a v s)
  | _ => splitWr16 now a v s

/-- AUX.RD8 (R240). -/
def auxRd8 (a : AuxAddr) (s : State) : Byte × State :=
  match auxTarget s.cfg s.bus.bank a with
  | .zram o => (zramRead s.bus o, s)
  | .fm p => (soundRead s.snd p, s)
  | .banksel => (0xFF, s)
  | .main m => busRd8 m s
  | .none => (0xFF, s)

/-- AUX.WR8 at time `now` (R241). -/
def auxWr8 (now : Nat) (a : AuxAddr) (v : Byte) (s : State) : State :=
  match auxTarget s.cfg s.bus.bank a with
  | .zram o => setBus s (zramWrite o v s.bus)
  | .fm p => fmPortWrite now p v s
  | .banksel => setBus s (bankShift v s.bus)
  | .main m => busWr8 now m v s
  | .none => s

end Sys2Proof.Machine
end

