-- ==== Sys2Proof/Machine/AuxPort.lean ====
section
/-! DEFINITION. The rows of the AUX port (40_bus_operations.md R240 to R247). -/

namespace Sys2Proof.Machine

/-- `ARD8.ZRAM` (R242): an AUX-port read whose address decodes to coprocessor RAM (R240). -/
def execArdZram (a : AuxAddr) (_t : Nat) (s : State) : Host.Outcome State Fault Refusal :=
  guarded s fun s => replyByte (auxRd8 a s)

/-- `AWR8.ZRAM` (R242): an AUX-port write whose address decodes to coprocessor RAM (R241). -/
def execAwrZram (a : AuxAddr) (v : Byte) (t : Nat) (s : State) : Host.Outcome State Fault Refusal :=
  guarded s fun s => reply .none (auxWr8 (nowUs s .aux t) a v s)

/-- `ARD8.FM` (R243): an AUX-port read whose address decodes to an FM port (R240). -/
def execArdFm (a : AuxAddr) (_t : Nat) (s : State) : Host.Outcome State Fault Refusal :=
  guarded s fun s => replyByte (auxRd8 a s)

/-- `AWR8.FM` (R243): an AUX-port write whose address decodes to an FM port (R241). -/
def execAwrFm (a : AuxAddr) (v : Byte) (t : Nat) (s : State) : Host.Outcome State Fault Refusal :=
  guarded s fun s => reply .none (auxWr8 (nowUs s .aux t) a v s)

/-- `ARD8.BANKSEL` (R244): an AUX-port read whose address decodes to the bank select line (R240). -/
def execArdBanksel (a : AuxAddr) (_t : Nat) (s : State) : Host.Outcome State Fault Refusal :=
  guarded s fun s => replyByte (auxRd8 a s)

/-- `AWR8.BANKSEL` (R244): an AUX-port write whose address decodes to the bank select line (R241). -/
def execAwrBanksel (a : AuxAddr) (v : Byte) (t : Nat) (s : State) : Host.Outcome State Fault Refusal :=
  guarded s fun s => reply .none (auxWr8 (nowUs s .aux t) a v s)

/-- `ARD8.VDPWIN` (R245): an AUX-port read whose address decodes to the VDP block (R240). -/
def execArdVdpwin (a : AuxAddr) (_t : Nat) (s : State) : Host.Outcome State Fault Refusal :=
  guarded s fun s => replyByte (auxRd8 a s)

/-- `AWR8.VDPWIN` (R245): an AUX-port write whose address decodes to the VDP block (R241). -/
def execAwrVdpwin (a : AuxAddr) (v : Byte) (t : Nat) (s : State) : Host.Outcome State Fault Refusal :=
  guarded s fun s => reply .none (auxWr8 (nowUs s .aux t) a v s)

/-- `ARD8.BANKWIN` (R246): an AUX-port read whose address decodes to the banked window (R240). -/
def execArdBankwin (a : AuxAddr) (_t : Nat) (s : State) : Host.Outcome State Fault Refusal :=
  guarded s fun s => replyByte (auxRd8 a s)

/-- `AWR8.BANKWIN` (R246): an AUX-port write whose address decodes to the banked window (R241). -/
def execAwrBankwin (a : AuxAddr) (v : Byte) (t : Nat) (s : State) : Host.Outcome State Fault Refusal :=
  guarded s fun s => reply .none (auxWr8 (nowUs s .aux t) a v s)

/-- `ARD8.NONE` (R247): an AUX-port read whose address decodes to an address with no device (R240). -/
def execArdNone (a : AuxAddr) (_t : Nat) (s : State) : Host.Outcome State Fault Refusal :=
  guarded s fun s => replyByte (auxRd8 a s)

/-- `AWR8.NONE` (R247): an AUX-port write whose address decodes to an address with no device (R241). -/
def execAwrNone (a : AuxAddr) (v : Byte) (t : Nat) (s : State) : Host.Outcome State Fault Refusal :=
  guarded s fun s => reply .none (auxWr8 (nowUs s .aux t) a v s)

end Sys2Proof.Machine
end

