-- ==== Sys2Proof/Machine/Bus.lean ====
section
/-! DEFINITION. The main-bus operations and their rows by region (40_bus_operations.md; an address the row does not select is
an ordinary transaction, log 10). -/

namespace Sys2Proof.Machine

/-- `RD8` (R200): a byte read anywhere on the main bus. -/
def execRd8 (_x : Ctx) (a : Addr) (s : State) : Host.Outcome State Fault Refusal :=
  guarded s fun s => replyByte (busRd8 a s)

/-- `RD16` (R201): a word read anywhere on the main bus. -/
def execRd16 (_x : Ctx) (a : Addr) (s : State) : Host.Outcome State Fault Refusal :=
  guarded s fun s => replyWord (busRd16 a s)

/-- `WR8` (R202): a byte write anywhere on the main bus. -/
def execWr8 (x : Ctx) (a : Addr) (v : Byte) (s : State) : Host.Outcome State Fault Refusal :=
  guarded s fun s => reply .none (busWr8 (ctxNow x s) a v s)

/-- `WR16` (R203): a word write anywhere on the main bus. -/
def execWr16 (x : Ctx) (a : Addr) (v : Half) (s : State) : Host.Outcome State Fault Refusal :=
  guarded s fun s => reply .none (busWr16 (ctxNow x s) a v s)

/-- `RD8.SRAM` (R206): a byte read whose address decodes to save RAM. -/
def execRd8Sram (_x : Ctx) (a : Addr) (s : State) : Host.Outcome State Fault Refusal :=
  guarded s fun s => replyByte (busRd8 a s)

/-- `WR8.SRAM` (R207): a byte write whose address decodes to save RAM. -/
def execWr8Sram (x : Ctx) (a : Addr) (v : Byte) (s : State) : Host.Outcome State Fault Refusal :=
  guarded s fun s => reply .none (busWr8 (ctxNow x s) a v s)

/-- `RD8.ROM` (R204): a byte read whose address decodes to the cartridge image. -/
def execRd8Rom (_x : Ctx) (a : Addr) (s : State) : Host.Outcome State Fault Refusal :=
  guarded s fun s => replyByte (busRd8 a s)

/-- `WR8.ROM` (R205): a byte write whose address decodes to the cartridge image. -/
def execWr8Rom (x : Ctx) (a : Addr) (v : Byte) (s : State) : Host.Outcome State Fault Refusal :=
  guarded s fun s => reply .none (busWr8 (ctxNow x s) a v s)

/-- `RD8.CARTOPEN` (R236): a byte read whose address decodes to the empty part of the cartridge window. -/
def execRd8Cartopen (_x : Ctx) (a : Addr) (s : State) : Host.Outcome State Fault Refusal :=
  guarded s fun s => replyByte (busRd8 a s)

/-- `WR8.CARTOPEN` (R237): a byte write whose address decodes to the empty part of the cartridge window. -/
def execWr8Cartopen (x : Ctx) (a : Addr) (v : Byte) (s : State) : Host.Outcome State Fault Refusal :=
  guarded s fun s => reply .none (busWr8 (ctxNow x s) a v s)

/-- `RD8.ZRAM` (R210): a byte read whose address decodes to coprocessor RAM. -/
def execRd8Zram (_x : Ctx) (a : Addr) (s : State) : Host.Outcome State Fault Refusal :=
  guarded s fun s => replyByte (busRd8 a s)

/-- `WR8.ZRAM` (R211): a byte write whose address decodes to coprocessor RAM. -/
def execWr8Zram (x : Ctx) (a : Addr) (v : Byte) (s : State) : Host.Outcome State Fault Refusal :=
  guarded s fun s => reply .none (busWr8 (ctxNow x s) a v s)

/-- `RD8.FM` (R214): a byte read whose address decodes to the FM block. -/
def execRd8Fm (_x : Ctx) (a : Addr) (s : State) : Host.Outcome State Fault Refusal :=
  guarded s fun s => replyByte (busRd8 a s)

/-- `WR8.FM` (R215): a byte write whose address decodes to the FM block. -/
def execWr8Fm (x : Ctx) (a : Addr) (v : Byte) (s : State) : Host.Outcome State Fault Refusal :=
  guarded s fun s => reply .none (busWr8 (ctxNow x s) a v s)

/-- `RD8.BANKSEL` (R217): a byte read whose address decodes to the bank select line. -/
def execRd8Banksel (_x : Ctx) (a : Addr) (s : State) : Host.Outcome State Fault Refusal :=
  guarded s fun s => replyByte (busRd8 a s)

/-- `WR8.BANKSEL` (R218): a byte write whose address decodes to the bank select line. -/
def execWr8Banksel (x : Ctx) (a : Addr) (v : Byte) (s : State) : Host.Outcome State Fault Refusal :=
  guarded s fun s => reply .none (busWr8 (ctxNow x s) a v s)

/-- `RD8.IO` (R220): a byte read whose address decodes to the I/O block. -/
def execRd8Io (_x : Ctx) (a : Addr) (s : State) : Host.Outcome State Fault Refusal :=
  guarded s fun s => replyByte (busRd8 a s)

/-- `WR8.IO` (R221): a byte write whose address decodes to the I/O block. -/
def execWr8Io (x : Ctx) (a : Addr) (v : Byte) (s : State) : Host.Outcome State Fault Refusal :=
  guarded s fun s => reply .none (busWr8 (ctxNow x s) a v s)

/-- `RD8.SRAMCTL` (R223): a byte read whose address decodes to the save-RAM control register. -/
def execRd8Sramctl (_x : Ctx) (a : Addr) (s : State) : Host.Outcome State Fault Refusal :=
  guarded s fun s => replyByte (busRd8 a s)

/-- `WR8.SRAMCTL` (R224): a byte write whose address decodes to the save-RAM control register. -/
def execWr8Sramctl (x : Ctx) (a : Addr) (v : Byte) (s : State) : Host.Outcome State Fault Refusal :=
  guarded s fun s => reply .none (busWr8 (ctxNow x s) a v s)

/-- `RD8.VDP` (R231): a byte read whose address decodes to the VDP block. -/
def execRd8Vdp (_x : Ctx) (a : Addr) (s : State) : Host.Outcome State Fault Refusal :=
  guarded s fun s => replyByte (busRd8 a s)

/-- `WR8.VDP` (R231): a byte write whose address decodes to the VDP block. -/
def execWr8Vdp (x : Ctx) (a : Addr) (v : Byte) (s : State) : Host.Outcome State Fault Refusal :=
  guarded s fun s => reply .none (busWr8 (ctxNow x s) a v s)

/-- `RD8.RAM` (R208): a byte read whose address decodes to general RAM. -/
def execRd8Ram (_x : Ctx) (a : Addr) (s : State) : Host.Outcome State Fault Refusal :=
  guarded s fun s => replyByte (busRd8 a s)

/-- `WR8.RAM` (R209): a byte write whose address decodes to general RAM. -/
def execWr8Ram (x : Ctx) (a : Addr) (v : Byte) (s : State) : Host.Outcome State Fault Refusal :=
  guarded s fun s => reply .none (busWr8 (ctxNow x s) a v s)

/-- `RD8.OPEN` (R236): a byte read whose address decodes to an address with no device. -/
def execRd8Open (_x : Ctx) (a : Addr) (s : State) : Host.Outcome State Fault Refusal :=
  guarded s fun s => replyByte (busRd8 a s)

/-- `WR8.OPEN` (R237): a byte write whose address decodes to an address with no device. -/
def execWr8Open (x : Ctx) (a : Addr) (v : Byte) (s : State) : Host.Outcome State Fault Refusal :=
  guarded s fun s => reply .none (busWr8 (ctxNow x s) a v s)

end Sys2Proof.Machine
end

