-- ==== Sys2Proof/Machine/SchedOps.lean ====
section
/-! DEFINITION. The frame scheduler and the odometer arbiter (41_frame_scheduler.md): one `Execute` call, RUNTO, the steps
of a line, the frame; and the frame end of the sound glue (44_sound_timer_dac.md R452). -/

namespace Sys2Proof.Machine

/-- An operation MAIN issues (R284), performed at its stamp. An acknowledge is `IntAck` of its level; a level of 0, which
R143 does not admit and no rule gives an effect of its own, is performed as any level that is not pending: spurious, no
fault (DESIGN CHOICE, log 24). -/
def mainOp (t : Nat) (o : EngOp) (s : State) : State :=
  match o with
  | .rd8 a => replyByte (busRd8 a s)
  | .rd16 a => replyWord (busRd16 a s)
  | .wr8 a v => reply .none (busWr8 (nowUs s .main t) a v s)
  | .wr16 a v => reply .none (busWr16 (nowUs s .main t) a v s)
  | .ack n => replyAck (intAck n.toNat s)
  | .ard8 _ | .awr8 _ _ => raiseFault (.engineAgent .main) s

/-- An operation AUX issues (R284), performed at its stamp. -/
def auxOp (t : Nat) (o : EngOp) (s : State) : State :=
  match o with
  | .ard8 a => replyByte (auxRd8 a s)
  | .awr8 a v => reply .none (auxWr8 (nowUs s .aux t) a v s)
  | .rd8 _ | .rd16 _ | .wr8 _ _ | .wr16 _ _ | .ack _ => raiseFault (.engineAgent .aux) s

/-- The response of the operation just performed, kept for the engine (R284). -/
def noteResp (s : State) : State := { s with engResps := s.engResps ++ [s.resp] }

/-- An operation with its stamp: the stamps of a call must not fall, and the operation must be the device's own (R284). -/
def engineOp (d : Device) (last t : Nat) (o : EngOp) (s : State) : State :=
  if t < last then raiseFault (.engineStamp d) s
  else
    match d with
    | .main => proceed (mainOp t o s) noteResp
    | .aux => proceed (auxOp t o s) noteResp

/-- The interrupt level read by an engine (R284, 60_exceptions.md R554): MAIN's response is the level; AUX has no level to
read, and its read is another agent's operation (log 16). -/
def engineLook (d : Device) (s : State) : State :=
  match d with
  | .main => noteResp (reply (.level (ipl s)) s)
  | .aux => raiseFault (.engineAgent .aux) s

/-- One event of a call, after the stamp `last` (R284, R470). -/
def engineEvent (d : Device) (last : Nat) (e : Event) (s : State) : State :=
  match e with
  | .op t o => engineOp d last t o s
  | .look => engineLook d s
  | .host h => setHost s (hostSet h s.host)

/-- The stamp that stands after an event: an operation's own, else the one that stood. -/
def stampAfter (last : Nat) : Event → Nat
  | .op t _ => t
  | .look | .host _ => last

/-- The events of a recorded call, in order, from the stamp `last`; the last stamp and the state (R284). A fault ends
it. -/
def runEvents (d : Device) : List Event → Nat → State → Nat × State
  | [], last, s => (last, s)
  | e :: r, last, s =>
    let s1 := engineEvent d last e s
    if s1.fault = none then runEvents d r (stampAfter last e) s1 else (last, s1)

/-- The events of a call no record gives, at most as many as the first number says: each one is a free value of the
responses the engine has been given so far (R284, log 6); `k` events are done. -/
def runFree (d : Device) (call b : Nat) : Nat → Nat → Nat → State → Nat × State
  | 0, _, last, s => (last, s)
  | n + 1, k, last, s =>
    match Config.engine call d b k s.engResps with
    | none => (last, s)
    | some e =>
      let s1 := engineEvent d last e s
      if s1.fault = none then runFree d call b n (k + 1) (stampAfter last e) s1 else (last, s1)

/-- The call is taken: it leaves the record, it is counted, and its responses start empty. -/
def takeCall (d : Device) (s : State) : State :=
  { s with engines := s.engines.set d (s.engines.get d).tail, calls := s.calls + 1, engResps := [] }

/-- The check at a call's return: no stamp exceeds the count (R284), and the count does not exceed the budget (R280). -/
def checkReturn (d : Device) (b c last : Nat) (s : State) : State :=
  if c < last then raiseFault (.engineStamp d) s
  else if b < c then raiseFault (.engineOverrun d b c) s
  else s

/-- What happens inside `Execute(d, b)`: the events of the next recorded call, else of the free one; the count returned,
the last stamp and the state (R9, R284, log 6). -/
def callBody (d : Device) (b : Nat) (s : State) : Nat × Nat × State :=
  match s.engines.get d with
  | k :: _ => (k.consumed, runEvents d k.events 0 (takeCall d s))
  | [] =>
    let r := runFree d s.calls b (Config.engineLen s.calls d b) 0 0 (takeCall d s)
    (Config.engineCount s.calls d b r.2.engResps, r)

/-- `Execute(d, b)` (R284): the count returned and the state. -/
def execCall (d : Device) (b : Nat) (s : State) : Nat × State :=
  let r := callBody d b s
  (r.1, proceed r.2.2 (checkReturn d b r.1 r.2.1))

/-- `odo[d] <- odo[d] + c` (R280). -/
def addOdo (d : Device) (c : Nat) (s : State) : State :=
  setSched s { s.sched with odo := s.sched.odo.set d (s.sched.odo.get d + c) }

/-- RUNTO (R280). -/
def runTo (d : Device) (T : Nat) (s : State) : State :=
  let s1 := setSched s { s.sched with tgt := s.sched.tgt.set d T }
  if s.sched.odo.get d < T then
    let r := execCall d (T - s.sched.odo.get d) s1
    proceed r.2 (addOdo d r.1)
  else s1

/-- `PadTimeoutStep()` for pad `p` (R267). -/
def padTimeoutAt (c : Cfg) (p : Nat) (b : Bus) : Bus :=
  if Memory.get 0 b.padPhase p = 0 then b
  else
    let t := Memory.get 0 b.padTimeout p + 1
    if c.padTimeoutLines ≤ t then
      { b with padPhase := Memory.put 0 b.padPhase p 0, padTimeout := Memory.put 0 b.padTimeout p 0 }
    else { b with padTimeout := Memory.put 0 b.padTimeout p t }

/-- `PadTimeoutStep()` (R267). -/
def padTimeoutStep (s : State) : State :=
  setBus s ((List.range s.cfg.nPads).foldl (fun b p => padTimeoutAt s.cfg p b) s.bus)

/-- The pad sample, step (1b) (R268). -/
def padSample (s : State) : State :=
  let r := samplePad s
  setSched r.2 { r.2.sched with padLatch := r.1 }

/-- Step (2): `TimerTick()` with MAIN's odometer and stamp 0 (R270, R438). -/
def timerStep (s : State) : State := setSnd s (timerTick (nowUs s .main 0) s.snd)

/-- `DrawLine(n)` on State (43_vdp_compositor.md R400). -/
def drawStep (n : Int) (s : State) : State :=
  let r := drawLine s.cfg s.sched.std n s.vdp s.sched.fb
  setVdp (setSched s { s.sched with fb := r.2 }) r.1

/-- The horizontal counter's part of step (3) (R272). -/
def hCount (s : State) : State :=
  if s.sched.hcnt - 1 < 0 then raiseIrqH (setSched s { s.sched with hcnt := (vreg s.vdp 10).toNat })
  else setSched s { s.sched with hcnt := s.sched.hcnt - 1 }

/-- Step (3), `HStep()`, on Active lines only (R272). -/
def hStep (s : State) : State :=
  if phaseOf s.cfg s.sched.line s.sched.std = some .active then
    drawStep ((s.sched.line : Int) - (s.cfg.activeStart.get s.sched.std : Int)) (hCount s)
  else s

/-- Entering or leaving a sub-slice: the slice and the h-blank status bit (R274). -/
def enterSlice (k : Slice) (hb : Bool) (s : State) : State :=
  setVdp (setSched s { s.sched with slice := k }) { s.vdp with stHblank := hb }

/-- The end of a line's h-blank sub-slice for a device (R274). -/
def hblankEnd (s : State) (d : Device) : Nat :=
  s.sched.line * (s.cfg.cpl.get d).get s.sched.std + (s.cfg.hbl.get d).get s.sched.std

/-- The end of a line for a device (R274). -/
def lineEnd (s : State) (d : Device) : Nat := (s.sched.line + 1) * (s.cfg.cpl.get d).get s.sched.std

/-- Both devices to their boundaries, MAIN first (R282). -/
def runBoth (stop : State → Device → Nat) (s : State) : State :=
  proceed (runTo .main (stop s .main) s) fun s1 => runTo .aux (stop s1 .aux) s1

/-- Step (4), `Slices()` (R274). -/
def slices (s : State) : State :=
  proceed (runBoth hblankEnd (enterSlice .hblank true s)) fun s1 =>
    proceed (runBoth lineEnd (enterSlice .display false s1)) fun s2 =>
      setSched s2 { s2.sched with slice := .none }

/-- `Snapshot()` (R276). -/
def snapshotStep (s : State) : State :=
  setSched s { s.sched with palsnap := Memory.ofList 0 0 (snapshotBytes s.cfg s.vdp) }

/-- `VBlankBoundary()` (R278): the raise first, then the status bits. -/
def vblankBoundary (s : State) : State :=
  let s1 := raiseIrqV s
  let s2 := setVdp s1 { s1.vdp with stF := true, stVblank := true }
  setSched s2 { s2.sched with frameComplete := true }

/-- Step (5) and the line count (R288). -/
def lineTail (s : State) : State :=
  let s1 := if s.sched.line + 1 = s.cfg.vblankStart.get s.sched.std then vblankBoundary s else s
  let s2 := if s1.sched.line = s1.cfg.snapshotLine then snapshotStep s1 else s1
  setSched s2 { s2.sched with line := s2.sched.line + 1 }

/-- LINESTEP (R288). -/
def lineStep (s : State) : State := proceed (slices (hStep (timerStep (padSample (padTimeoutStep s))))) lineTail

/-- LINESTEP as the frame loop performs it: only while a line is left (R264, R31, log 15). -/
def lineStepIfLeft (s : State) : State :=
  if s.sched.line < s.cfg.linesTotal.get s.sched.std then lineStep s else s

/-- The loop of `RunFrame` (R264): lines until none is left or a fault is recorded. -/
def lineLoop : Nat → State → State
  | 0, s => s
  | n + 1, s => proceed (lineStepIfLeft s) (lineLoop n)

/-- FRAMESTART (R266). It may change the standard, and `FB_LINES` with it (R38): the frame buffer is one table of lines, and
lines at or past the new `FB_LINES` keep what an earlier frame drew (DESIGN CHOICE, log 35). -/
def frameStart (s : State) : State :=
  let r := samplePal s
  let s1 := r.2
  let s2 := setSched s1
    { s1.sched with
      std := stdOf r.1
      inFrame := true
      line := 0
      slice := .none
      odo := ⟨0, 0⟩
      tgt := ⟨0, 0⟩
      frameComplete := false
      hcnt := (vreg s1.vdp 10).toNat }
  let s3 := setVdp s2 { s2.vdp with stVblank := false, stHblank := false, stF := false }
  setSnd s3 (soundFrameStart s3.snd)

/-- `frame_us` (R452). -/
def frameUs (s : State) : Nat := nowUs s .main 0

/-- The entries of the DAC buffer that cover the frame (R452). -/
def coverUs (c : Cfg) (us : Nat) : Nat := min c.dacBufLen (max 1 us)

/-- `Finalize()` (44_sound_timer_dac.md R452): the sample block and the state. -/
def finalizeStep (s : State) : List (List Int) × State :=
  let us := frameUs s
  let N := s.cfg.nOut.get s.sched.std
  let held := holdToEnd s.cfg s.snd
  let syn := fun k ch => (Config.synth s.synths s.snd.synthLog N k ch).toInt
  let r := sampleMute s
  let x := timerRebase us { held with synthLog := [] }
  (mixPcm s.cfg syn held.dacBuf (coverUs s.cfg us) N r.1, setSnd { r.2 with synths := s.synths + 1 } x)

/-- FRAMEEND (R290). The frame buffer is handed over whole, lines at or past `FB_LINES` with it (DESIGN CHOICE, log 35). -/
def frameEnd (s : State) : State :=
  let r := finalizeStep s
  let s1 := setSched r.2 { r.2.sched with inFrame := false }
  reply (.done s1.sched.fb s1.sched.palsnap r.1) s1

/-- RUNFRAME (R264). -/
def runFrame (s : State) : State :=
  let r := sampleCancel s
  if r.1 then reply .cancelled r.2
  else
    let s1 := reply .none (frameStart r.2)
    proceed (lineLoop (s1.cfg.linesTotal.get s1.sched.std) s1) frameEnd

/-- `PaceSleep(elapsed_us, s)` for the target periods of the two standards (70_reset_and_hazards.md R622): timing that
no state depends on. -/
def paceSleep (period : PerStd Nat) (elapsed : Nat) (s : Std) : Nat :=
  min (period.get s - elapsed) (min period.ntsc period.pal)

end Sys2Proof.Machine
end

