-- ==== Sys2Proof/Machine/Frame.lean ====
section
/-! DEFINITION. The engine calls, the acknowledges, the scheduler and the calls it makes (41_frame_scheduler.md). -/

namespace Sys2Proof.Machine

/-- `Execute` as an operation: the count is its response (R142). -/
def executeOp (d : Device) (b : Nat) (s : State) : State :=
  proceed (execCall d b s).2 (reply (.consumed (execCall d b s).1))

/-- `Finalize` as an operation: the block is its response (44_sound_timer_dac.md R452). -/
def finalizeOp (s : State) : State := reply (.pcm (finalizeStep s).1) (finalizeStep s).2

/-- `EXECUTE` (R284): one `Execute` call; its response is the count (R142). -/
def execExecute (d : Device) (budget : Nat) (s : State) : Host.Outcome State Fault Refusal :=
  guarded s fun s => executeOp d budget s

/-- `ACK.V` (R556): `IntAck(VINT_LEVEL)`. -/
def execAckV (s : State) : Host.Outcome State Fault Refusal :=
  guarded s fun s => replyAck (intAck s.cfg.vintLevel s)

/-- `ACK.H` (R556): `IntAck(HINT_LEVEL)`. -/
def execAckH (s : State) : Host.Outcome State Fault Refusal :=
  guarded s fun s => replyAck (intAck s.cfg.hintLevel s)

/-- `ACK.SPURIOUS` (R556): `IntAck(level)`. -/
def execAckSpurious (level : BitVec 3) (s : State) : Host.Outcome State Fault Refusal :=
  guarded s fun s => replyAck (intAck level.toNat s)

/-- `RUNFRAME` (R264): one frame. -/
def execRunframe (s : State) : Host.Outcome State Fault Refusal :=
  guarded s fun s => runFrame s

/-- `FRAMESTART` (R266): the start of a frame. -/
def execFramestart (s : State) : Host.Outcome State Fault Refusal :=
  guarded s fun s => reply .none (frameStart s)

/-- `LINESTEP` (R288): one scanline, while one is left (log 15). -/
def execLinestep (s : State) : Host.Outcome State Fault Refusal :=
  guarded s fun s => reply .none (lineStepIfLeft s)

/-- `PADTIMEOUT` (R267): `PadTimeoutStep`. -/
def execPadtimeout (s : State) : Host.Outcome State Fault Refusal :=
  guarded s fun s => reply .none (padTimeoutStep s)

/-- `PADSAMPLE` (R268): the pad sample of a line. -/
def execPadsample (s : State) : Host.Outcome State Fault Refusal :=
  guarded s fun s => reply .none (padSample s)

/-- `TIMERSTEP` (R270): step (2) of a line. -/
def execTimerstep (s : State) : Host.Outcome State Fault Refusal :=
  guarded s fun s => reply .none (timerStep s)

/-- `HSTEP` (R272): step (3) of a line, which acts on Active lines (log 15). -/
def execHstep (s : State) : Host.Outcome State Fault Refusal :=
  guarded s fun s => reply .none (hStep s)

/-- `SLICES` (R274): step (4) of a line. -/
def execSlices (s : State) : Host.Outcome State Fault Refusal :=
  guarded s fun s => reply .none (Sys2Proof.Machine.slices s)

/-- `SNAPSHOT` (R276): the palette snapshot. -/
def execSnapshot (s : State) : Host.Outcome State Fault Refusal :=
  guarded s fun s => reply .none (snapshotStep s)

/-- `VBLANKBOUNDARY` (R278): the V-blank boundary. -/
def execVblankboundary (s : State) : Host.Outcome State Fault Refusal :=
  guarded s fun s => reply .none (vblankBoundary s)

/-- `RUNTO` (R280): a device run to a target. -/
def execRunto (d : Device) (target : Nat) (s : State) : Host.Outcome State Fault Refusal :=
  guarded s fun s => reply .none (runTo d target s)

/-- `FRAMEEND` (R290): the end of a frame. -/
def execFrameend (s : State) : Host.Outcome State Fault Refusal :=
  guarded s fun s => frameEnd s

/-- `DRAWLINE` (R400): `DrawLine`. -/
def execDrawline (n : Int) (s : State) : Host.Outcome State Fault Refusal :=
  guarded s fun s => reply .none (drawStep n s)

/-- `TIMERTICK` (R438): `TimerTick`. -/
def execTimertick (s : State) : Host.Outcome State Fault Refusal :=
  guarded s fun s => reply .none (timerStep s)

/-- `FINALIZE` (R452): `Finalize`; its response is the sample block. -/
def execFinalize (s : State) : Host.Outcome State Fault Refusal :=
  guarded s fun s => finalizeOp s

/-- `SOUNDFRAMESTART` (R450): `SoundFrameStart`. -/
def execSoundframestart (s : State) : Host.Outcome State Fault Refusal :=
  guarded s fun s => reply .none (setSnd s (soundFrameStart s.snd))

/-- `TIMERREBASE` (R456): `TimerRebase`. -/
def execTimerrebase (frameUs : Nat) (s : State) : Host.Outcome State Fault Refusal :=
  guarded s fun s => reply .none (setSnd s (timerRebase frameUs s.snd))

end Sys2Proof.Machine
end

