-- ==== Sys2Proof/Machine/HostOps.lean ====
section
/-! DEFINITION. The cartridge socket and the host operations (45_cartridge_host.md), and the system reset. -/

namespace Sys2Proof.Machine

/-- A byte of an image (R472). A header byte beyond its end, which a `MIN_IMAGE_SIZE` below 0x1BC lets LOAD ask for, is a
free value (log 32). -/
def imageByte (i : Image) (o : Nat) : Byte :=
  if o < i.len then Memory.get 0 i.bytes o else Config.beyondImage i o

/-- `BE32(image, o)` (R474). -/
def be32 (i : Image) (o : Nat) : BitVec 32 :=
  imageByte i o ++ imageByte i (o + 1) ++ imageByte i (o + 2) ++ imageByte i (o + 3)

/-- `e or 1`: the end of save RAM rounded up to odd (R474). -/
def oddUp (e : Nat) : Nat := e / 2 * 2 + 1

/-- `SaveRamOf(image, n)` (R474 to R476). The end is tested after it is rounded, which for an odd `CART_END` is the test
on the raw value (R474, log 22). -/
def saveRamOf (c : Cfg) (i : Image) : SaveRam :=
  let s := (be32 i 0x1B4).toNat
  let e := (be32 i 0x1B8).toNat
  if imageByte i 0x1B0 ≠ 0x52 ∨ imageByte i 0x1B1 ≠ 0x41 then .absent
  else if e ≤ s then .absent
  else if c.cartEnd < oddUp e then .absent
  else
    { present := true
      start := BitVec.ofNat 24 (s / 2 * 2)
      stop := BitVec.ofNat 24 (oddUp e)
      active := decide (i.len ≤ s / 2 * 2)
      wp := false
      bytes := [] }

/-- Save RAM after a system reset (R62, R484): bytes kept, active as LOAD computed it (0 where none is present, log 18),
not write-protected. -/
def sramAfterReset (romLen : Nat) (d : SaveRam) : SaveRam :=
  { d with active := d.present && decide (romLen ≤ d.start.toNat), wp := false }

/-- Bus state after a system reset: column S of R62. -/
def busAfterReset (c : Cfg) (b : Bus) : Bus :=
  { Bus.fresh c with
    rom := b.rom
    romLen := b.romLen
    cartPresent := b.cartPresent
    sram := sramAfterReset b.romLen b.sram
    patches := b.patches }

/-- RESET, the full system reset (R484): column S of R62. -/
def systemReset (s : State) : State :=
  { s with
    sched := Sched.fresh s.cfg (stdOf s.host.pal.value)
    bus := busAfterReset s.cfg s.bus
    vdp := Vdp.fresh s.cfg
    snd := Snd.fresh [.resetMark] }

/-- The size test of LOAD (R472). An empty image fails whatever `MIN_IMAGE_SIZE` is: `rom_len` is at least 1 (R41; log
32). -/
def loadable (c : Cfg) (i : Image) : Bool := 1 ≤ i.len && c.minImageSize ≤ i.len && i.len ≤ c.cartEnd + 1

/-- LOAD (R472, R608). -/
def hostLoad (i : Image) (s : State) : State :=
  if loadable s.cfg i then
    reply .loadOk (systemReset (setBus s
      { s.bus with
        rom := i.bytes
        romLen := i.len
        cartPresent := true
        sram := saveRamOf s.cfg i
        patches := [] }))
  else reply .loadFail s

/-- UNPLUG (R480). -/
def hostUnplug (s : State) : State :=
  reply .none (systemReset (setBus s
    { s.bus with
      rom := Memory.ofList 0 0 s.cfg.stubRom
      romLen := s.cfg.stubRom.length
      cartPresent := false
      sram := .absent
      patches := [] }))

/-- Two bytes of the image written as a word, high byte first (R482). -/
def romPutWord (k : Nat) (w : Half) (m : Mem) : Mem :=
  Memory.put 0 (Memory.put 0 m k (hiByte w)) (k + 1) (loByte w)

/-- One code of PATCH (R482): the bus, and whether the code was skipped. -/
def patchOne (a : Addr) (v : Half) (b : Bus) : Bool × Bus :=
  let k := a.toNat / 2 * 2
  match Memory.lookup b.patches k with
  | some w => (false, { b with rom := romPutWord k w b.rom, patches := Memory.erase b.patches k })
  | none =>
    if k + 1 < b.romLen then
      (false,
        { b with
          rom := romPutWord k v b.rom
          patches := Memory.insert b.patches k
            (wordOf (Memory.get 0 b.rom k) (Memory.get 0 b.rom (k + 1))) })
    else (true, b)

/-- The codes of PATCH in order (R482): how many were skipped, and the bus. -/
def patchAll : List (Addr × Half) → Nat → Bus → Nat × Bus
  | [], n, b => (n, b)
  | (a, v) :: r, n, b =>
    let p := patchOne a v b
    patchAll r (if p.1 then n + 1 else n) p.2

/-- PATCH (R482). -/
def hostPatch (codes : List (Addr × Half)) (s : State) : State :=
  let r := patchAll codes 0 s.bus
  reply (.skipped r.1) (setBus s r.2)

/-- A write of the mailbox as an operation of its own (R486). -/
def hostSetOp (h : HostSet) (s : State) : State := reply .none (setHost s (hostSet h s.host))

end Sys2Proof.Machine
end

