-- ==== Sys2Proof/Machine/HostRows.lean ====
section
/-! DEFINITION. The host operations (45_cartridge_host.md). -/

namespace Sys2Proof.Machine

/-- `HOST.LOAD` (R472): LOAD. -/
def execHostLoad (image : Image) (s : State) : Host.Outcome State Fault Refusal :=
  guardedHost s fun s => Sys2Proof.Machine.hostLoad image s

/-- `HOST.UNPLUG` (R480): UNPLUG. -/
def execHostUnplug (s : State) : Host.Outcome State Fault Refusal :=
  guardedHost s fun s => Sys2Proof.Machine.hostUnplug s

/-- `HOST.PATCH` (R482): PATCH. -/
def execHostPatch (codes : List (Addr × Half)) (s : State) : Host.Outcome State Fault Refusal :=
  guardedHost s fun s => Sys2Proof.Machine.hostPatch codes s

/-- `HOST.RESET` (R484): the full system reset. -/
def execHostReset (s : State) : Host.Outcome State Fault Refusal :=
  guardedHost s fun s => reply .none (systemReset s)

/-- `HOST.SETPAD` (R486): SETPAD. -/
def execHostSetpad (w : BitVec 32) (s : State) : Host.Outcome State Fault Refusal :=
  guarded s fun s => hostSetOp (.pad w) s

/-- `HOST.SETMUTE` (R486): SETMUTE. -/
def execHostSetmute (b : Bool) (s : State) : Host.Outcome State Fault Refusal :=
  guarded s fun s => hostSetOp (.mute b) s

/-- `HOST.SETCANCEL` (R486): SETCANCEL. -/
def execHostSetcancel (b : Bool) (s : State) : Host.Outcome State Fault Refusal :=
  guarded s fun s => hostSetOp (.cancel b) s

/-- `HOST.SETPAL` (R486): SETPAL. -/
def execHostSetpal (b : Bool) (s : State) : Host.Outcome State Fault Refusal :=
  guarded s fun s => hostSetOp (.pal b) s

end Sys2Proof.Machine
end

