-- ==== Sys2Proof/Machine/Io.lean ====
section
/-! DEFINITION. The rows of the I/O registers and of the two control lines (40_bus_operations.md R218 to R224). -/

namespace Sys2Proof.Machine

/-- An access to register `i` of the I/O block, in either direction (R220, R221). -/
def ioAccess (i : Nat) (k : Access) (s : State) : State :=
  match k with
  | .read => reply (.byte (ioRead s.cfg s.sched s.bus i)) s
  | .write v => reply .none (setBus s (ioWrite s.cfg i v s.bus))

/-- An access on the even lane of the I/O block (R236, R237). -/
def ioEvenAccess (a : Addr) (k : Access) (s : State) : State :=
  match k with
  | .read => reply (.byte (openBus a)) s
  | .write _ => reply .none s

/-- `IO.VERSION` (R220): register 0 of the I/O block. -/
def execIoVersion (k : Access) (s : State) : Host.Outcome State Fault Refusal :=
  guarded s fun s => ioAccess 0 k s

/-- `IO.DATA0` (R220): register 1 of the I/O block. -/
def execIoData0 (k : Access) (s : State) : Host.Outcome State Fault Refusal :=
  guarded s fun s => ioAccess 1 k s

/-- `IO.DATA1` (R220): register 2 of the I/O block. -/
def execIoData1 (k : Access) (s : State) : Host.Outcome State Fault Refusal :=
  guarded s fun s => ioAccess 2 k s

/-- `IO.DATA2` (R220): register 3 of the I/O block. -/
def execIoData2 (k : Access) (s : State) : Host.Outcome State Fault Refusal :=
  guarded s fun s => ioAccess 3 k s

/-- `IO.CTRL0` (R220): register 4 of the I/O block. -/
def execIoCtrl0 (k : Access) (s : State) : Host.Outcome State Fault Refusal :=
  guarded s fun s => ioAccess 4 k s

/-- `IO.CTRL1` (R220): register 5 of the I/O block. -/
def execIoCtrl1 (k : Access) (s : State) : Host.Outcome State Fault Refusal :=
  guarded s fun s => ioAccess 5 k s

/-- `IO.CTRL2` (R220): register 6 of the I/O block. -/
def execIoCtrl2 (k : Access) (s : State) : Host.Outcome State Fault Refusal :=
  guarded s fun s => ioAccess 6 k s

/-- `IO.SER0` (R220): register 7 of the I/O block. -/
def execIoSer0 (k : Access) (s : State) : Host.Outcome State Fault Refusal :=
  guarded s fun s => ioAccess 7 k s

/-- `IO.SER1` (R220): register 8 of the I/O block. -/
def execIoSer1 (k : Access) (s : State) : Host.Outcome State Fault Refusal :=
  guarded s fun s => ioAccess 8 k s

/-- `IO.SER2` (R220): register 9 of the I/O block. -/
def execIoSer2 (k : Access) (s : State) : Host.Outcome State Fault Refusal :=
  guarded s fun s => ioAccess 9 k s

/-- `IO.SER3` (R220): register 10 of the I/O block. -/
def execIoSer3 (k : Access) (s : State) : Host.Outcome State Fault Refusal :=
  guarded s fun s => ioAccess 10 k s

/-- `IO.SER4` (R220): register 11 of the I/O block. -/
def execIoSer4 (k : Access) (s : State) : Host.Outcome State Fault Refusal :=
  guarded s fun s => ioAccess 11 k s

/-- `IO.SER5` (R220): register 12 of the I/O block. -/
def execIoSer5 (k : Access) (s : State) : Host.Outcome State Fault Refusal :=
  guarded s fun s => ioAccess 12 k s

/-- `IO.SER6` (R220): register 13 of the I/O block. -/
def execIoSer6 (k : Access) (s : State) : Host.Outcome State Fault Refusal :=
  guarded s fun s => ioAccess 13 k s

/-- `IO.SER7` (R220): register 14 of the I/O block. -/
def execIoSer7 (k : Access) (s : State) : Host.Outcome State Fault Refusal :=
  guarded s fun s => ioAccess 14 k s

/-- `IO.SER8` (R220): register 15 of the I/O block. -/
def execIoSer8 (k : Access) (s : State) : Host.Outcome State Fault Refusal :=
  guarded s fun s => ioAccess 15 k s

/-- `IO.EVEN` (R236): the even lane of the I/O block: no device (R236, R237). -/
def execIoEven (a : Addr) (k : Access) (s : State) : Host.Outcome State Fault Refusal :=
  guarded s fun s => ioEvenAccess a k s

/-- `SRAMCTL.value` (R224): `SramCtlWrite`. -/
def execSramctlValue (v : Byte) (s : State) : Host.Outcome State Fault Refusal :=
  guarded s fun s => reply .none (setBus s (sramCtlWrite v s.bus))

/-- `BANKSEL.value` (R218): `BankShift`. -/
def execBankselValue (v : Byte) (s : State) : Host.Outcome State Fault Refusal :=
  guarded s fun s => reply .none (setBus s (bankShift v s.bus))

end Sys2Proof.Machine
end

