-- ==== Sys2Proof/Machine/Ports.lean ====
section
/-! DEFINITION. The rows of the VDP block and of the FM block (30_encoding.md R149, R150). -/

namespace Sys2Proof.Machine

/-- `RD16.VDPDATA` (R230): a word read of the VDP data port. -/
def execRd16Vdpdata (_x : Ctx) (a : Addr) (s : State) : Host.Outcome State Fault Refusal :=
  guarded s fun s => replyWord (busRd16 a s)

/-- `WR16.VDPDATA` (R230): a word write of the VDP data port. -/
def execWr16Vdpdata (x : Ctx) (a : Addr) (v : Half) (s : State) : Host.Outcome State Fault Refusal :=
  guarded s fun s => reply .none (busWr16 (ctxNow x s) a v s)

/-- `RD16.VDPCTRL` (R232): a word read of the VDP control port. -/
def execRd16Vdpctrl (_x : Ctx) (a : Addr) (s : State) : Host.Outcome State Fault Refusal :=
  guarded s fun s => replyWord (busRd16 a s)

/-- `WR16.VDPCTRL` (R232): a word write of the VDP control port. -/
def execWr16Vdpctrl (x : Ctx) (a : Addr) (v : Half) (s : State) : Host.Outcome State Fault Refusal :=
  guarded s fun s => reply .none (busWr16 (ctxNow x s) a v s)

/-- `RD8.VDPDATA` (R231): a byte read of the VDP data port. -/
def execRd8Vdpdata (_x : Ctx) (a : Addr) (s : State) : Host.Outcome State Fault Refusal :=
  guarded s fun s => replyByte (busRd8 a s)

/-- `WR8.VDPDATA` (R231): a byte write of the VDP data port. -/
def execWr8Vdpdata (x : Ctx) (a : Addr) (v : Byte) (s : State) : Host.Outcome State Fault Refusal :=
  guarded s fun s => reply .none (busWr8 (ctxNow x s) a v s)

/-- `RD8.VDPCTRL` (R233): a byte read of the VDP control port. -/
def execRd8Vdpctrl (_x : Ctx) (a : Addr) (s : State) : Host.Outcome State Fault Refusal :=
  guarded s fun s => replyByte (busRd8 a s)

/-- `WR8.VDPCTRL` (R233): a byte write of the VDP control port. -/
def execWr8Vdpctrl (x : Ctx) (a : Addr) (v : Byte) (s : State) : Host.Outcome State Fault Refusal :=
  guarded s fun s => reply .none (busWr8 (ctxNow x s) a v s)

/-- `RD8.PSG` (R234): a byte read of the PSG port. -/
def execRd8Psg (_x : Ctx) (a : Addr) (s : State) : Host.Outcome State Fault Refusal :=
  guarded s fun s => replyByte (busRd8 a s)

/-- `WR8.PSG` (R235): a byte write of the PSG port. -/
def execWr8Psg (x : Ctx) (a : Addr) (v : Byte) (s : State) : Host.Outcome State Fault Refusal :=
  guarded s fun s => reply .none (busWr8 (ctxNow x s) a v s)

/-- `RD8.VDPNONE` (R236): a byte read of an offset of the VDP block with no device. -/
def execRd8Vdpnone (_x : Ctx) (a : Addr) (s : State) : Host.Outcome State Fault Refusal :=
  guarded s fun s => replyByte (busRd8 a s)

/-- `WR8.VDPNONE` (R237): a byte write of an offset of the VDP block with no device. -/
def execWr8Vdpnone (x : Ctx) (a : Addr) (v : Byte) (s : State) : Host.Outcome State Fault Refusal :=
  guarded s fun s => reply .none (busWr8 (ctxNow x s) a v s)

/-- `WR8.FM.ADDR0` (R422): a byte write of the address port of bank 0 of the FM block. -/
def execWr8FmAddr0 (x : Ctx) (a : Addr) (v : Byte) (s : State) : Host.Outcome State Fault Refusal :=
  guarded s fun s => reply .none (busWr8 (ctxNow x s) a v s)

/-- `WR8.FM.DATA0` (R422): a byte write of the data port of bank 0 of the FM block. -/
def execWr8FmData0 (x : Ctx) (a : Addr) (v : Byte) (s : State) : Host.Outcome State Fault Refusal :=
  guarded s fun s => reply .none (busWr8 (ctxNow x s) a v s)

/-- `WR8.FM.ADDR1` (R422): a byte write of the address port of bank 1 of the FM block. -/
def execWr8FmAddr1 (x : Ctx) (a : Addr) (v : Byte) (s : State) : Host.Outcome State Fault Refusal :=
  guarded s fun s => reply .none (busWr8 (ctxNow x s) a v s)

/-- `WR8.FM.DATA1` (R422): a byte write of the data port of bank 1 of the FM block. -/
def execWr8FmData1 (x : Ctx) (a : Addr) (v : Byte) (s : State) : Host.Outcome State Fault Refusal :=
  guarded s fun s => reply .none (busWr8 (ctxNow x s) a v s)

/-- `RD8.FM.ANY` (R428): a byte read of any port of the FM block. -/
def execRd8FmAny (_x : Ctx) (a : Addr) (s : State) : Host.Outcome State Fault Refusal :=
  guarded s fun s => replyByte (busRd8 a s)

end Sys2Proof.Machine
end

