-- ==== Sys2Proof/Machine/Sound.lean ====
section
/-! DEFINITION. The rows of the sound registers and of their values (44_sound_timer_dac.md; log 14). -/

namespace Sys2Proof.Machine

/-- `FMREG.MODE` (R432): a data-port write landing on the mode register of bank 0 (R422). -/
def execFmregMode (x : Ctx) (v : Byte) (s : State) : Host.Outcome State Fault Refusal :=
  guarded s fun s => reply .none (setSnd s (soundRegWrite s.cfg (ctxNow x s) 0 s.cfg.regMode v s.snd))

/-- `FMREG.DACDATA` (R444): a data-port write landing on the DAC data register of bank 0 (R422). -/
def execFmregDacdata (x : Ctx) (v : Byte) (s : State) : Host.Outcome State Fault Refusal :=
  guarded s fun s => reply .none (setSnd s (soundRegWrite s.cfg (ctxNow x s) 0 s.cfg.regDacdata v s.snd))

/-- `FMREG.DACEN` (R442): a data-port write landing on the DAC enable register of bank 0 (R422). -/
def execFmregDacen (x : Ctx) (v : Byte) (s : State) : Host.Outcome State Fault Refusal :=
  guarded s fun s => reply .none (setSnd s (soundRegWrite s.cfg (ctxNow x s) 0 s.cfg.regDacen v s.snd))

/-- `FMREG.TA_HI` (R430): a data-port write landing on timer A high of bank 0 (R422). -/
def execFmregTaHi (x : Ctx) (v : Byte) (s : State) : Host.Outcome State Fault Refusal :=
  guarded s fun s => reply .none (setSnd s (soundRegWrite s.cfg (ctxNow x s) 0 0x24 v s.snd))

/-- `FMREG.TA_LO` (R430): a data-port write landing on timer A low of bank 0 (R422). -/
def execFmregTaLo (x : Ctx) (v : Byte) (s : State) : Host.Outcome State Fault Refusal :=
  guarded s fun s => reply .none (setSnd s (soundRegWrite s.cfg (ctxNow x s) 0 0x25 v s.snd))

/-- `FMREG.TB` (R430): a data-port write landing on timer B of bank 0 (R422). -/
def execFmregTb (x : Ctx) (v : Byte) (s : State) : Host.Outcome State Fault Refusal :=
  guarded s fun s => reply .none (setSnd s (soundRegWrite s.cfg (ctxNow x s) 0 0x26 v s.snd))

/-- `FMREG.OTHER` (R424): a data-port write landing on any other register (R422). -/
def execFmregOther (x : Ctx) (bank : BitVec 1) (r : Byte) (v : Byte) (s : State) :
    Host.Outcome State Fault Refusal :=
  guarded s fun s => reply .none (setSnd s (soundRegWrite s.cfg (ctxNow x s) bank r v s.snd))

/-- `MODE.value` (R432): `ModeWrite` with the mode register as it stands for its old value. -/
def execModeValue (x : Ctx) (v : Byte) (s : State) : Host.Outcome State Fault Refusal :=
  guarded s fun s => reply .none (setSnd s (modeWrite s.cfg (ctxNow x s) (fmReg s.snd 0 s.cfg.regMode) v s.snd))

/-- `DACEN.value` (R442): `DacEnable`. -/
def execDacenValue (x : Ctx) (v : Byte) (s : State) : Host.Outcome State Fault Refusal :=
  guarded s fun s => reply .none (setSnd s (dacEnable s.cfg (ctxNow x s) v s.snd))

/-- `DACDATA.value` (R444): `DacData`. -/
def execDacdataValue (x : Ctx) (v : Byte) (s : State) : Host.Outcome State Fault Refusal :=
  guarded s fun s => reply .none (setSnd s (dacData s.cfg (ctxNow x s) v s.snd))

/-- `PSG.value` (R426): `PsgWrite`. -/
def execPsgValue (x : Ctx) (v : Byte) (s : State) : Host.Outcome State Fault Refusal :=
  guarded s fun s => reply .none (psgPortWrite (ctxNow x s) v s)

end Sys2Proof.Machine
end

