-- ==== Sys2Proof/Machine/Video.lean ====
section
/-! DEFINITION. The rows of the VDP control words, of the DMA and of the two ports (42_vdp_ports_dma.md). -/

namespace Sys2Proof.Machine

/-- `REGSET` (R326): the control-port word of a register set; it is one while no command is pending (R324, log 11). -/
def execRegset (z : BitVec 1) (r : BitVec 5) (d : Byte) (s : State) : Host.Outcome State Fault Refusal :=
  guarded s fun s => reply .none (ctrlPortWrite16 (regsetWord z r d) s)

/-- `CMD1` (R324): the control-port word of a first half; it is one while no command is pending (log 11). -/
def execCmd1 (c : BitVec 2) (a : BitVec 14) (s : State) : Host.Outcome State Fault Refusal :=
  guarded s fun s => reply .none (ctrlPortWrite16 (cmd1Word c a) s)

/-- `CMD2` (R324): the control-port word of a second half; it is one while a command is pending (log 11). -/
def execCmd2 (x : BitVec 8) (cc : BitVec 4) (y : BitVec 2) (aa : BitVec 2) (s : State) :
    Host.Outcome State Fault Refusal :=
  guarded s fun s => reply .none (ctrlPortWrite16 (cmd2Word x cc y aa) s)

/-- `COMMAND` (R328): `Command`. -/
def execCommand (w : CmdWord) (s : State) : Host.Outcome State Fault Refusal :=
  guarded s fun s => reply .none (vdpCommand w s)

/-- `MODE.VRAM_RD` (R338): a command for a VRAM read (R328, log 12). -/
def execModeVramRd (w : CmdWord) (s : State) : Host.Outcome State Fault Refusal :=
  guarded s fun s => reply .none (vdpCommand w s)

/-- `MODE.VRAM_WR` (R335): a command for a VRAM write (R328, log 12). -/
def execModeVramWr (w : CmdWord) (s : State) : Host.Outcome State Fault Refusal :=
  guarded s fun s => reply .none (vdpCommand w s)

/-- `MODE.CRAM_WR` (R335): a command for a CRAM write (R328, log 12). -/
def execModeCramWr (w : CmdWord) (s : State) : Host.Outcome State Fault Refusal :=
  guarded s fun s => reply .none (vdpCommand w s)

/-- `MODE.VSRAM_RD` (R338): a command for a VSRAM read (R328, log 12). -/
def execModeVsramRd (w : CmdWord) (s : State) : Host.Outcome State Fault Refusal :=
  guarded s fun s => reply .none (vdpCommand w s)

/-- `MODE.VSRAM_WR` (R335): a command for a VSRAM write (R328, log 12). -/
def execModeVsramWr (w : CmdWord) (s : State) : Host.Outcome State Fault Refusal :=
  guarded s fun s => reply .none (vdpCommand w s)

/-- `MODE.CRAM_RD` (R338): a command for a CRAM read (R328, log 12). -/
def execModeCramRd (w : CmdWord) (s : State) : Host.Outcome State Fault Refusal :=
  guarded s fun s => reply .none (vdpCommand w s)

/-- `MODE.INVALID` (R170): a command with a reserved transfer mode (R328, log 12). -/
def execModeInvalid (w : CmdWord) (s : State) : Host.Outcome State Fault Refusal :=
  guarded s fun s => reply .none (vdpCommand w s)

/-- `DMAFLAG` (R328): a command with the DMA flag (R328, log 12). -/
def execDmaflag (w : CmdWord) (s : State) : Host.Outcome State Fault Refusal :=
  guarded s fun s => reply .none (vdpCommand w s)

/-- `DMA_BUS` (R354): `DmaBus` with the source bits the word gives (log 13). -/
def execDmaBus (hi : BitVec 7) (s : State) : Host.Outcome State Fault Refusal :=
  guarded s fun s => reply .none (dmaBus hi s)

/-- `DMA_FILL` (R356): `DmaFill` with the byte `b`; the other bits of VR[23] are not read (log 13). -/
def execDmaFill (_z : BitVec 6) (b : Byte) (s : State) : Host.Outcome State Fault Refusal :=
  guarded s fun s => reply .none (setVdp s (Sys2Proof.Machine.dmaFill s.cfg b s.vdp))

/-- `DMA_COPY` (R357): `DmaCopy`; the other bits of VR[23] are not read (log 13). -/
def execDmaCopy (_z : BitVec 6) (s : State) : Host.Outcome State Fault Refusal :=
  guarded s fun s => reply .none (setVdp s (Sys2Proof.Machine.dmaCopy s.cfg s.vdp))

/-- `DMASTART` (R350): `DmaStart`. -/
def execDmastart (s : State) : Host.Outcome State Fault Refusal :=
  guarded s fun s => reply .none (dmaStart s)

/-- `VDATA.WR` (R334): `VdpDataWrite16`. -/
def execVdataWr (d : Half) (s : State) : Host.Outcome State Fault Refusal :=
  guarded s fun s => reply .none (dataPortWrite16 d s)

/-- `VDATA.RD` (R338): `VdpDataRead16`. -/
def execVdataRd (s : State) : Host.Outcome State Fault Refusal :=
  guarded s fun s => replyWord (dataPortRead16 s)

/-- `VSTAT` (R332): `VdpCtrlRead16`: the word of the row is the response (log 25). -/
def execVstat (s : State) : Host.Outcome State Fault Refusal :=
  guarded s fun s => replyWord (ctrlPortRead16 s)

end Sys2Proof.Machine
end

