-- ==== Sys2Proof/Machine/Dispatch.lean ====
section
/-! DEFINITION. One arm per operation: the meaning of each row of the opcode table. -/

namespace Sys2Proof.Machine

def exec (i : Instr) (s : State) : Host.Outcome State Fault Refusal :=
  match i with
  -- Bus
  | .rd8 x a => Sys2Proof.Machine.execRd8 x a s
  | .rd16 x a => Sys2Proof.Machine.execRd16 x a s
  | .wr8 x a v => Sys2Proof.Machine.execWr8 x a v s
  | .wr16 x a v => Sys2Proof.Machine.execWr16 x a v s
  | .rd8Sram x a => Sys2Proof.Machine.execRd8Sram x a s
  | .wr8Sram x a v => Sys2Proof.Machine.execWr8Sram x a v s
  | .rd8Rom x a => Sys2Proof.Machine.execRd8Rom x a s
  | .wr8Rom x a v => Sys2Proof.Machine.execWr8Rom x a v s
  | .rd8Cartopen x a => Sys2Proof.Machine.execRd8Cartopen x a s
  | .wr8Cartopen x a v => Sys2Proof.Machine.execWr8Cartopen x a v s
  | .rd8Zram x a => Sys2Proof.Machine.execRd8Zram x a s
  | .wr8Zram x a v => Sys2Proof.Machine.execWr8Zram x a v s
  | .rd8Fm x a => Sys2Proof.Machine.execRd8Fm x a s
  | .wr8Fm x a v => Sys2Proof.Machine.execWr8Fm x a v s
  | .rd8Banksel x a => Sys2Proof.Machine.execRd8Banksel x a s
  | .wr8Banksel x a v => Sys2Proof.Machine.execWr8Banksel x a v s
  | .rd8Io x a => Sys2Proof.Machine.execRd8Io x a s
  | .wr8Io x a v => Sys2Proof.Machine.execWr8Io x a v s
  | .rd8Sramctl x a => Sys2Proof.Machine.execRd8Sramctl x a s
  | .wr8Sramctl x a v => Sys2Proof.Machine.execWr8Sramctl x a v s
  | .rd8Vdp x a => Sys2Proof.Machine.execRd8Vdp x a s
  | .wr8Vdp x a v => Sys2Proof.Machine.execWr8Vdp x a v s
  | .rd8Ram x a => Sys2Proof.Machine.execRd8Ram x a s
  | .wr8Ram x a v => Sys2Proof.Machine.execWr8Ram x a v s
  | .rd8Open x a => Sys2Proof.Machine.execRd8Open x a s
  | .wr8Open x a v => Sys2Proof.Machine.execWr8Open x a v s
  -- Ports
  | .rd16Vdpdata x a => Sys2Proof.Machine.execRd16Vdpdata x a s
  | .wr16Vdpdata x a v => Sys2Proof.Machine.execWr16Vdpdata x a v s
  | .rd16Vdpctrl x a => Sys2Proof.Machine.execRd16Vdpctrl x a s
  | .wr16Vdpctrl x a v => Sys2Proof.Machine.execWr16Vdpctrl x a v s
  | .rd8Vdpdata x a => Sys2Proof.Machine.execRd8Vdpdata x a s
  | .wr8Vdpdata x a v => Sys2Proof.Machine.execWr8Vdpdata x a v s
  | .rd8Vdpctrl x a => Sys2Proof.Machine.execRd8Vdpctrl x a s
  | .wr8Vdpctrl x a v => Sys2Proof.Machine.execWr8Vdpctrl x a v s
  | .rd8Psg x a => Sys2Proof.Machine.execRd8Psg x a s
  | .wr8Psg x a v => Sys2Proof.Machine.execWr8Psg x a v s
  | .rd8Vdpnone x a => Sys2Proof.Machine.execRd8Vdpnone x a s
  | .wr8Vdpnone x a v => Sys2Proof.Machine.execWr8Vdpnone x a v s
  | .wr8FmAddr0 x a v => Sys2Proof.Machine.execWr8FmAddr0 x a v s
  | .wr8FmData0 x a v => Sys2Proof.Machine.execWr8FmData0 x a v s
  | .wr8FmAddr1 x a v => Sys2Proof.Machine.execWr8FmAddr1 x a v s
  | .wr8FmData1 x a v => Sys2Proof.Machine.execWr8FmData1 x a v s
  | .rd8FmAny x a => Sys2Proof.Machine.execRd8FmAny x a s
  -- Sound
  | .fmregMode x v => Sys2Proof.Machine.execFmregMode x v s
  | .fmregDacdata x v => Sys2Proof.Machine.execFmregDacdata x v s
  | .fmregDacen x v => Sys2Proof.Machine.execFmregDacen x v s
  | .fmregTaHi x v => Sys2Proof.Machine.execFmregTaHi x v s
  | .fmregTaLo x v => Sys2Proof.Machine.execFmregTaLo x v s
  | .fmregTb x v => Sys2Proof.Machine.execFmregTb x v s
  | .fmregOther x bank r v => Sys2Proof.Machine.execFmregOther x bank r v s
  | .modeValue x v => Sys2Proof.Machine.execModeValue x v s
  | .dacenValue x v => Sys2Proof.Machine.execDacenValue x v s
  | .dacdataValue x v => Sys2Proof.Machine.execDacdataValue x v s
  | .psgValue x v => Sys2Proof.Machine.execPsgValue x v s
  -- Io
  | .ioVersion k => Sys2Proof.Machine.execIoVersion k s
  | .ioData0 k => Sys2Proof.Machine.execIoData0 k s
  | .ioData1 k => Sys2Proof.Machine.execIoData1 k s
  | .ioData2 k => Sys2Proof.Machine.execIoData2 k s
  | .ioCtrl0 k => Sys2Proof.Machine.execIoCtrl0 k s
  | .ioCtrl1 k => Sys2Proof.Machine.execIoCtrl1 k s
  | .ioCtrl2 k => Sys2Proof.Machine.execIoCtrl2 k s
  | .ioSer0 k => Sys2Proof.Machine.execIoSer0 k s
  | .ioSer1 k => Sys2Proof.Machine.execIoSer1 k s
  | .ioSer2 k => Sys2Proof.Machine.execIoSer2 k s
  | .ioSer3 k => Sys2Proof.Machine.execIoSer3 k s
  | .ioSer4 k => Sys2Proof.Machine.execIoSer4 k s
  | .ioSer5 k => Sys2Proof.Machine.execIoSer5 k s
  | .ioSer6 k => Sys2Proof.Machine.execIoSer6 k s
  | .ioSer7 k => Sys2Proof.Machine.execIoSer7 k s
  | .ioSer8 k => Sys2Proof.Machine.execIoSer8 k s
  | .ioEven a k => Sys2Proof.Machine.execIoEven a k s
  | .sramctlValue v => Sys2Proof.Machine.execSramctlValue v s
  | .bankselValue v => Sys2Proof.Machine.execBankselValue v s
  -- Video
  | .regset z r d => Sys2Proof.Machine.execRegset z r d s
  | .cmd1 c a => Sys2Proof.Machine.execCmd1 c a s
  | .cmd2 x cc y aa => Sys2Proof.Machine.execCmd2 x cc y aa s
  | .command w => Sys2Proof.Machine.execCommand w s
  | .modeVramRd w => Sys2Proof.Machine.execModeVramRd w s
  | .modeVramWr w => Sys2Proof.Machine.execModeVramWr w s
  | .modeCramWr w => Sys2Proof.Machine.execModeCramWr w s
  | .modeVsramRd w => Sys2Proof.Machine.execModeVsramRd w s
  | .modeVsramWr w => Sys2Proof.Machine.execModeVsramWr w s
  | .modeCramRd w => Sys2Proof.Machine.execModeCramRd w s
  | .modeInvalid w => Sys2Proof.Machine.execModeInvalid w s
  | .dmaflag w => Sys2Proof.Machine.execDmaflag w s
  | .dmaBus hi => Sys2Proof.Machine.execDmaBus hi s
  | .dmaFill z b => Sys2Proof.Machine.execDmaFill z b s
  | .dmaCopy z => Sys2Proof.Machine.execDmaCopy z s
  | .dmastart => Sys2Proof.Machine.execDmastart s
  | .vdataWr d => Sys2Proof.Machine.execVdataWr d s
  | .vdataRd => Sys2Proof.Machine.execVdataRd s
  | .vstat => Sys2Proof.Machine.execVstat s
  -- AuxPort
  | .ardZram a t => Sys2Proof.Machine.execArdZram a t s
  | .awrZram a v t => Sys2Proof.Machine.execAwrZram a v t s
  | .ardFm a t => Sys2Proof.Machine.execArdFm a t s
  | .awrFm a v t => Sys2Proof.Machine.execAwrFm a v t s
  | .ardBanksel a t => Sys2Proof.Machine.execArdBanksel a t s
  | .awrBanksel a v t => Sys2Proof.Machine.execAwrBanksel a v t s
  | .ardVdpwin a t => Sys2Proof.Machine.execArdVdpwin a t s
  | .awrVdpwin a v t => Sys2Proof.Machine.execAwrVdpwin a v t s
  | .ardBankwin a t => Sys2Proof.Machine.execArdBankwin a t s
  | .awrBankwin a v t => Sys2Proof.Machine.execAwrBankwin a v t s
  | .ardNone a t => Sys2Proof.Machine.execArdNone a t s
  | .awrNone a v t => Sys2Proof.Machine.execAwrNone a v t s
  -- Frame
  | .execute d budget => Sys2Proof.Machine.execExecute d budget s
  | .ackV => Sys2Proof.Machine.execAckV s
  | .ackH => Sys2Proof.Machine.execAckH s
  | .ackSpurious level => Sys2Proof.Machine.execAckSpurious level s
  | .runframe => Sys2Proof.Machine.execRunframe s
  | .framestart => Sys2Proof.Machine.execFramestart s
  | .linestep => Sys2Proof.Machine.execLinestep s
  | .padtimeout => Sys2Proof.Machine.execPadtimeout s
  | .padsample => Sys2Proof.Machine.execPadsample s
  | .timerstep => Sys2Proof.Machine.execTimerstep s
  | .hstep => Sys2Proof.Machine.execHstep s
  | .slices => Sys2Proof.Machine.execSlices s
  | .snapshot => Sys2Proof.Machine.execSnapshot s
  | .vblankboundary => Sys2Proof.Machine.execVblankboundary s
  | .runto d target => Sys2Proof.Machine.execRunto d target s
  | .frameend => Sys2Proof.Machine.execFrameend s
  | .drawline n => Sys2Proof.Machine.execDrawline n s
  | .timertick => Sys2Proof.Machine.execTimertick s
  | .finalize => Sys2Proof.Machine.execFinalize s
  | .soundframestart => Sys2Proof.Machine.execSoundframestart s
  | .timerrebase frameUs => Sys2Proof.Machine.execTimerrebase frameUs s
  -- HostRows
  | .hostLoad image => Sys2Proof.Machine.execHostLoad image s
  | .hostUnplug => Sys2Proof.Machine.execHostUnplug s
  | .hostPatch codes => Sys2Proof.Machine.execHostPatch codes s
  | .hostReset => Sys2Proof.Machine.execHostReset s
  | .hostSetpad w => Sys2Proof.Machine.execHostSetpad w s
  | .hostSetmute b => Sys2Proof.Machine.execHostSetmute b s
  | .hostSetcancel b => Sys2Proof.Machine.execHostSetcancel b s
  | .hostSetpal b => Sys2Proof.Machine.execHostSetpal b s

end Sys2Proof.Machine
end

