-- ==== Sys2Proof/Machine/Step.lean ====
section
/-! DEFINITION. One step: the operation at the front of the input queue; with no operation requested, the dedicated worker
runs a frame (41_frame_scheduler.md R260, log 5). -/

namespace Sys2Proof.Machine

/-- One step of the machine. -/
def step (s : State) : Host.Outcome State Fault Refusal :=
  match s.inq with
  | [] => exec .runframe s
  | b :: bs =>
    match decode (b :: bs) with
    | .ok (i, rest) => exec i { s with inq := rest }
    | .error e => .refused (.undecodable e)

/-- The bytes of a table word, at the front of the input queue (log 5). -/
def State.withFetchWord (s : State) (nbits w : Nat) : State :=
  match decodeTableWord nbits w with
  | some i => { s with inq := encode i ++ s.inq }
  | none => s

end Sys2Proof.Machine
end

