-- ==== Sys2Proof/Safety.lean ====
section
/-! DEFINITION. What a good state is and what a safe step is. `State.Inv` gathers the ranges 10_state.md gives its state,
the canonical form of every table, and the cache invariant (43_vdp_compositor.md R394). -/

namespace Sys2Proof.Machine

/-- Every listed index is below `n`. -/
def Memory.below {α : Type} (n : Nat) (m : Sparse α) : Prop := ∀ c ∈ m, c.1 < n

/-- A table of `n` entries in canonical form. -/
def Memory.table {α : Type} (d : α) (n : Nat) (m : Sparse α) : Prop := Memory.wf d m ∧ Memory.below n m

/-- The cache invariant (R394): each cache is valid while its dirty bit is clear, and no entry's bit is set without the
global one. -/
def Vdp.cacheInv (c : Cfg) (v : Vdp) : Prop :=
  (v.dirtyPalette = false → v.palCache = Memory.ofList 0 0 (paletteBytes c v)) ∧
  (v.dirtySprite = false → v.sprOrder = spriteOrder c v) ∧
  (∀ i, Memory.get false v.dirtyCram i = true → v.dirtyPalette = true) ∧
  (∀ g, Memory.get false v.dirtyVram g = true → v.dirtySprite = true)

/-- The VDP's tables (R49, R51, R52, R55). -/
def Vdp.tables (c : Cfg) (v : Vdp) : Prop :=
  Memory.table 0 32 v.vr ∧ Memory.table 0 c.vramSize v.vram ∧ Memory.table 0 c.cramN v.cram ∧
  Memory.table 0 c.vsramN v.vsram ∧ Memory.table false (c.vramSize / 256) v.dirtyVram ∧
  Memory.table false c.cramN v.dirtyCram ∧ Memory.table 0 (c.cramN * c.bpp) v.palCache ∧
  v.sprOrder.length ≤ Cfg.spriteCap

/-- The scheduler's ranges (R31, R34) and tables (R37, R38). -/
def Sched.inv (c : Cfg) (x : Sched) : Prop :=
  x.line ≤ c.linesTotal.get x.std ∧ (-1 ≤ x.hcnt ∧ x.hcnt ≤ 255) ∧
  Memory.table 0 256 x.palsnap ∧ Memory.wf 0 x.fb

/-- A save-RAM descriptor (R42): a present one has its start even, its end odd, inside the cartridge window, and its bytes
in canonical form; an absent one is the one value of log 18. -/
def SaveRam.inv (c : Cfg) (d : SaveRam) : Prop :=
  (d.present = true → d.start.toNat % 2 = 0 ∧ d.stop.toNat % 2 = 1 ∧ d.start.toNat < d.stop.toNat ∧
    d.stop.toNat ≤ c.cartEnd ∧ Memory.table 0 (d.stop.toNat - d.start.toNat + 1) d.bytes) ∧
  (d.present = false → d = .absent)

/-- The bus's ranges and tables (R41 to R48). -/
def Bus.inv (c : Cfg) (b : Bus) : Prop :=
  (1 ≤ b.romLen ∧ b.romLen ≤ c.cartEnd + 1 ∧ Memory.table 0 b.romLen b.rom) ∧
  SaveRam.inv c b.sram ∧
  Memory.table 0 c.ramSize b.ram ∧ Memory.table 0 c.zramSize b.zram ∧
  Memory.table 0x7F 3 b.ioData ∧ Memory.table 0 3 b.ioCtrl ∧ Memory.table 0 9 b.ioSer ∧
  Memory.table 0 c.nPads b.padPhase ∧ Memory.table 0 c.nPads b.padTimeout ∧
  b.patches.Pairwise (fun x y => x.1 < y.1) ∧ (∀ p ∈ b.patches, p.1 % 2 = 0 ∧ p.1 + 1 < b.romLen)

/-- The sound glue's ranges and tables (R56, R58, R59). -/
def Snd.inv (c : Cfg) (x : Snd) : Prop :=
  Memory.table 0 2 x.fmSel ∧ Memory.table 0 512 x.fm ∧ field x.tover 2 6 = 0 ∧
  (-1 ≤ x.dacIdx ∧ x.dacIdx < c.dacBufLen) ∧ Memory.table 0x80 c.dacBufLen x.dacBuf

/-- A good state. Every reachable state is one. -/
def State.Inv (s : State) : Prop :=
  s.cfg.wf = true ∧ Sched.inv s.cfg s.sched ∧ Bus.inv s.cfg s.bus ∧ Vdp.tables s.cfg s.vdp ∧
  Vdp.cacheInv s.cfg s.vdp ∧ Snd.inv s.cfg s.snd

/-- An address with no device (40_bus_operations.md R236): the empty part of the cartridge window, an address above it in
no window, the even lane of the I/O block, an offset of the VDP block without a port. -/
def noDevice (c : Cfg) (b : Bus) (a : Addr) : Prop :=
  (a.toNat ≤ c.cartEnd ∧ b.romLen ≤ a.toNat ∧ sramAt b.sram a = none) ∨
  (c.cartEnd < a.toNat ∧ ∀ w ∈ c.windows, inWin w a = false) ∨
  (inWin c.ioWin a = true ∧ a.getLsbD 0 = false) ∨
  (inWin c.vdpWin a = true ∧ 8 ≤ (field a 0 5).toNat ∧ (field a 0 5).toNat ≠ 0x11)

/-- A write-only register of the main bus (R236): the bank select line, the save-RAM control register, the PSG port. -/
def writeOnly (c : Cfg) (a : Addr) : Prop :=
  inWin c.bankWin a = true ∨ a = c.sramctlAddr ∨ (inWin c.vdpWin a = true ∧ (field a 0 5).toNat = 0x11)

/-- The operation writes the word `w` at the VDP's control port: a word write there, or the write of a byte, which stands
on both lanes (40_bus_operations.md R232, R233). -/
def ctrlPortWord (c : Cfg) (w : Half) (i : Instr) : Prop :=
  ∃ x a, inWin c.vdpWin a = true ∧ 4 ≤ (field a 0 5).toNat ∧ (field a 0 5).toNat < 8 ∧
    (i = .wr16 x a w ∨ i = .wr16Vdpctrl x a w ∨
      ∃ v, w = v ++ v ∧ (i = .wr8 x a v ∨ i = .wr8Vdp x a v ∨ i = .wr8Vdpctrl x a v))

/-- The operation writes the word `w` at the VDP's data port, by word or by a byte on both lanes (R230, R231). -/
def dataPortWord (c : Cfg) (w : Half) (i : Instr) : Prop :=
  ∃ x a, inWin c.vdpWin a = true ∧ (field a 0 5).toNat < 4 ∧
    (i = .wr16 x a w ∨ i = .wr16Vdpdata x a w ∨
      ∃ v, w = v ++ v ∧ (i = .wr8 x a v ∨ i = .wr8Vdp x a v ∨ i = .wr8Vdpdata x a v))

/-- The row of I/O register `n` (30_encoding.md R151). -/
def ioRow (k : Access) : Nat → Instr
  | 0 => .ioVersion k
  | 1 => .ioData0 k
  | 2 => .ioData1 k
  | 3 => .ioData2 k
  | 4 => .ioCtrl0 k
  | 5 => .ioCtrl1 k
  | 6 => .ioCtrl2 k
  | 7 => .ioSer0 k
  | 8 => .ioSer1 k
  | 9 => .ioSer2 k
  | 10 => .ioSer3 k
  | 11 => .ioSer4 k
  | 12 => .ioSer5 k
  | 13 => .ioSer6 k
  | 14 => .ioSer7 k
  | _ => .ioSer8 k

/-- `y` is `x` after a sample `v` was captured at time `now` (44_sound_timer_dac.md R446): the entry at the clamped time, or
the newest one if that is later, takes `v`, and the entries skipped take the held sample. -/
def Captured (c : Cfg) (now : Nat) (v : Byte) (x y : Snd) : Prop :=
  y = { x with dacBuf := y.dacBuf, dacIdx := y.dacIdx, dacLast := v } ∧
  y.dacIdx = max x.dacIdx (min now (c.dacBufLen - 1) : Nat) ∧
  ∀ j : Nat, Memory.get 0x80 y.dacBuf j =
    if (j : Int) = y.dacIdx then v
    else if x.dacIdx < j ∧ j < min now (c.dacBufLen - 1) then x.dacLast
    else Memory.get 0x80 x.dacBuf j

/-- The engines have at least `n` calls recorded each, and every recorded call does nothing and consumes nothing. -/
def State.idle (n : Nat) (s : State) : Prop :=
  ∀ d, n ≤ (s.engines.get d).length ∧ ∀ k ∈ s.engines.get d, k = ⟨[], 0⟩

/-- The state after a list of operations, if each answers a next state. -/
def runAll : List Instr → State → Option State
  | [], s => some s
  | i :: r, s =>
    match exec i s with
    | .next t => runAll r t
    | _ => none

/-- Operations one after another, each on the state its first part makes of the one before; a recorded fault ends them
(41_frame_scheduler.md R281). -/
def runChain : List ((State → State) × Instr) → State → Option State
  | [], s => some s
  | (f, i) :: r, s =>
    match exec i (f s) with
    | .next t => if t.fault = none then runChain r t else some t
    | _ => none

/-- The row of an AUX-port read (30_encoding.md R166). -/
def auxReadRow (a : AuxAddr) (t : Nat) : Instr :=
  if a ≤ 0x3FFF then .ardZram a t
  else if a ≤ 0x5FFF then .ardFm a t
  else if a ≤ 0x60FF then .ardBanksel a t
  else if 0x7F00 ≤ a ∧ a ≤ 0x7F1F then .ardVdpwin a t
  else if 0x8000 ≤ a then .ardBankwin a t
  else .ardNone a t

/-- The row of an AUX-port write (R166). -/
def auxWriteRow (a : AuxAddr) (v : Byte) (t : Nat) : Instr :=
  if a ≤ 0x3FFF then .awrZram a v t
  else if a ≤ 0x5FFF then .awrFm a v t
  else if a ≤ 0x60FF then .awrBanksel a v t
  else if 0x7F00 ≤ a ∧ a ≤ 0x7F1F then .awrVdpwin a v t
  else if 0x8000 ≤ a then .awrBankwin a v t
  else .awrNone a v t

/-- The row of an operation the engine of a device issues with a stamp; none where the operation is not that device's
(41_frame_scheduler.md R284). An acknowledge is the row that names its level (log 24). -/
def engineRow (d : Device) (t : Nat) (o : EngOp) : Option Instr :=
  match d, o with
  | .main, .rd8 a => some (.rd8 ⟨.main, t⟩ a)
  | .main, .rd16 a => some (.rd16 ⟨.main, t⟩ a)
  | .main, .wr8 a v => some (.wr8 ⟨.main, t⟩ a v)
  | .main, .wr16 a v => some (.wr16 ⟨.main, t⟩ a v)
  | .main, .ack l => some (.ackSpurious l)
  | .aux, .ard8 a => some (auxReadRow a t)
  | .aux, .awr8 a v => some (auxWriteRow a v t)
  | .main, .ard8 _ | .main, .awr8 _ _ => none
  | .aux, .rd8 _ | .aux, .rd16 _ | .aux, .wr8 _ _ | .aux, .wr16 _ _ | .aux, .ack _ => none

/-- The row of a write of the host (45_cartridge_host.md R486). -/
def hostRow : HostSet → Instr
  | .pad w => .hostSetpad w
  | .mute b => .hostSetmute b
  | .cancel b => .hostSetcancel b
  | .pal b => .hostSetpal b

/-- An event that may happen in a call of the device (R284, R470): an operation of its own, MAIN's read of the level, a
write of the host. -/
def ownEvent (d : Device) : Event → Bool
  | .op t o => (engineRow d t o).isSome
  | .look => d = .main
  | .host _ => true

/-- The stamps of a call's operations, in order (R284). -/
def eventStamps : List Event → List Nat
  | [] => []
  | .op t _ :: r => t :: eventStamps r
  | .look :: r | .host _ :: r => eventStamps r

/-- The state after the events of a call, each performed by its row, every response kept for the engine (R284); none if
an event is not the device's own. -/
def performed (d : Device) : List Event → State → Option State
  | [], s => some s
  | .op t o :: r, s =>
    match (engineRow d t o).map (exec · s) with
    | some (.next u) => performed d r { u with engResps := u.engResps ++ [u.resp] }
    | _ => none
  | .look :: r, s =>
    if d = .main then performed d r { s with resp := .level (ipl s), engResps := s.engResps ++ [.level (ipl s)] }
    else none
  | .host h :: r, s =>
    match exec (hostRow h) s with
    | .next u => performed d r { s with host := u.host }
    | _ => none

/-- A safe step: it answers a next state in which no fault is recorded (10_state.md R61). -/
def SafeStep (s : State) : Prop := ∃ t, step s = .next t ∧ t.fault = none

end Sys2Proof.Machine
end

