-- ==== Sys2Proof/Certificates/Slice0/Obligations.lean ====
section
/-! DEFINITION. The statements for the provers. Each holds for every well-formed configuration, since State holds it. -/

open Sys2Proof Sys2Proof.Machine

/-- The transport (log 3, the model's choice) drops no operand: what `encode` writes, `decode` reads back, whatever
follows, for every well-formed operation. -/
def Obligations.DecodeReadsBackEncode : Prop :=
  ∀ (i : Instr) (rest : List Byte), i.wf = true → decode (encode i ++ rest) = .ok (i, rest)

/-- What the decoder accepts is a well-formed operation, and it consumes bytes (log 3). -/
def Obligations.DecodedOperationsAreWellFormed : Prop :=
  ∀ (bs rest : List Byte) (i : Instr), decode bs = .ok (i, rest) → i.wf = true ∧ rest.length < bs.length

/-- Words written from the encodings of 30_encoding.md decode to what they stand for (R156, R157, R158, R162, R148,
R149, R151, R166). The bytes before and after the word are the transport's (log 3). The spec marks these encodings
[from general knowledge]. -/
def Obligations.SpecWordsDecode : Prop :=
  decode [73, 0x8F, 0x02] = .ok (.regset 0 15 2, []) ∧
  decode [74, 0x41, 0x23] = .ok (.cmd1 1 0x123, []) ∧
  decode [75, 0xFF, 0x0F] = .ok (.cmd2 0xFF 0 3 3, []) ∧
  decode [79, 0xC0, 0x7E, 0x00, 0x00] = .ok (.modeCramWr ⟨3, 0x7E, 0, 0, 0, 0⟩, []) ∧
  decode [49, 0x01, 0x27, 0x01, 0, 0, 0, 0, 0] = .ok (.fmregOther ⟨.main, 0⟩ 1 0x27 1, []) ∧
  decode [23, 0xFF, 0x00, 0x00, 0xAB, 0, 0, 0, 0, 7] = .ok (.wr8Ram ⟨.main, 7⟩ 0xFF0000 0xAB, []) ∧
  decode [27, 0xC0, 0x00, 0x00, 0x0E, 0xEE, 0, 0, 0, 0, 0] = .ok (.wr16Vdpdata ⟨.main, 0⟩ 0xC00000 0x0EEE, []) ∧
  decode [55, 0xA1, 0x00, 0x03, 1, 0x40] = .ok (.ioData0 (.write 0x40), []) ∧
  decode [100, 0x82, 0x00, 0, 0, 0, 3] = .ok (.ardBankwin 0x8200 3, []) ∧
  decode [105, 0x06] = .ok (.ackV, [])

/-- One step runs the operation at the front of the input queue on the state without it; with nothing queued it runs
a frame; bytes that encode nothing are refused (logs 3, 5: the queue is the model's). -/
def Obligations.StepRunsTheDecodedOperation : Prop :=
  ∀ (s : State),
    (s.inq = [] → step s = exec .runframe s) ∧
    (∀ i rest, s.inq ≠ [] → decode s.inq = .ok (i, rest) → step s = exec i { s with inq := rest }) ∧
    (∀ e, s.inq ≠ [] → decode s.inq = .error e → step s = .refused (.undecodable e))

/-- The machine after power-on is a good state, whatever the configuration; so is the state after reset, which is
the power-on state of `CFG_TEST` (log 1, the model's choice). -/
def Obligations.ResetIsGood : Prop :=
  (∀ c : Cfg, c.wf = true → (State.powerOn c).Inv) ∧ State.reset.Inv

/-- Every step keeps a good state good: ranges, canonical tables, the save-RAM descriptor's form, the caches. -/
def Obligations.StepKeepsGoodStates : Prop :=
  ∀ (s t : State), s.Inv → step s = .next t → t.Inv

/-- The cache invariant (R394): it holds at reset and every operation keeps it, from every state that has it. R394
is marked [derived] in the spec. -/
def Obligations.CacheInvariant : Prop :=
  (∀ c, Vdp.cacheInv c (Vdp.fresh c)) ∧
  ∀ (i : Instr) (s t : State), Vdp.cacheInv s.cfg s.vdp → exec i s = .next t → Vdp.cacheInv t.cfg t.vdp

/-- The configuration is a parameter (R30): no operation, and no step, changes it. -/
def Obligations.ConfigurationIsConstant : Prop :=
  (∀ (i : Instr) (s t : State), exec i s = .next t → t.cfg = s.cfg) ∧
  ∀ s t : State, step s = .next t → t.cfg = s.cfg

/-- No bus transaction, port write or engine call sets an interrupt latch (R553): only the frame, the line, step (3)
and the v-blank boundary can. -/
def Obligations.OnlyTheSchedulerRaises : Prop :=
  ∀ (i : Instr) (s t : State),
    i ≠ .runframe → i ≠ .linestep → i ≠ .hstep → i ≠ .vblankboundary → exec i s = .next t →
    (t.sched.irqH = true → s.sched.irqH = true) ∧ (t.sched.irqV = true → s.sched.irqV = true)

/-- The fault record is sticky, and once it is set every operation is refused (R61, R570); an ill-formed
configuration refuses every operation; LOAD, UNPLUG, PATCH and RESET are refused inside a frame (R470). That a fault
refuses what follows is log 9. -/
def Obligations.Refusals : Prop :=
  (∀ (i : Instr) (s : State), s.cfg.wf = true → s.fault ≠ none → exec i s = .refused .afterFault) ∧
  (∀ (i : Instr) (s : State), s.cfg.wf = false → exec i s = .refused .illFormedCfg) ∧
  (∀ (i : Instr) (s : State), s.ready → s.sched.inFrame = true →
    (i = .hostUnplug ∨ i = .hostReset ∨ (∃ g, i = .hostLoad g) ∨ (∃ l, i = .hostPatch l)) →
    exec i s = .refused .insideFrame)

/-- Column P of the reset table (R62), for every configuration: what power-on leaves in the registers and memories.
R62 is the spec's decision (its D45). -/
def Obligations.PowerOnTable : Prop :=
  ∀ (c : Cfg),
    let s := State.powerOn c
    (s.sched = ⟨0, .none, false, .ntsc, ⟨0, 0⟩, ⟨0, 0⟩, 0, false, false, false, [], [], c.padUntouched⟩) ∧
    (s.host.pad.value = c.padUntouched ∧ s.host.mute.value = false ∧ s.host.cancel.value = false ∧
      s.host.pal.value = false) ∧
    (∀ o (h : o < c.stubRom.length), Memory.get 0 s.bus.rom o = c.stubRom[o]) ∧
    (s.bus.romLen = c.stubRom.length ∧ s.bus.cartPresent = false ∧ s.bus.bank = 0 ∧ s.bus.patches = []) ∧
    (s.bus.sram.present = false ∧ s.bus.sram.active = false ∧ s.bus.sram.wp = false) ∧
    (∀ o, Memory.get 0 s.bus.ram o = 0 ∧ Memory.get 0 s.bus.zram o = 0 ∧ Memory.get 0x7F s.bus.ioData o = 0x7F ∧
      Memory.get 0 s.bus.ioCtrl o = 0 ∧ Memory.get 0 s.bus.ioSer o = 0 ∧ Memory.get 0 s.bus.padPhase o = 0 ∧
      Memory.get 0 s.bus.padTimeout o = 0) ∧
    (∀ o, vreg s.vdp o = 0 ∧ Memory.get 0 s.vdp.vram o = 0 ∧ Memory.get 0 s.vdp.cram o = 0 ∧
      Memory.get 0 s.vdp.vsram o = 0 ∧ Memory.get 0 s.vdp.palCache o = 0) ∧
    (s.vdp.dirtyPalette = true ∧ s.vdp.dirtySprite = true ∧
      (∀ g, g < c.vramSize / 256 → Memory.get false s.vdp.dirtyVram g = true) ∧
      (∀ e, e < c.cramN → Memory.get false s.vdp.dirtyCram e = true)) ∧
    (s.vdp.pend = false ∧ s.vdp.cmdHi = 0 ∧ s.vdp.code = 0 ∧ s.vdp.addr = 0 ∧ s.vdp.fillArmed = false ∧
      s.vdp.stVblank = false ∧ s.vdp.stHblank = false ∧ s.vdp.stF = false ∧ s.vdp.sprOrder = []) ∧
    (∀ b r, fmReg s.snd b r = 0 ∧ Memory.get 0 s.snd.fmSel b = 0 ∧ Memory.get 0x80 s.snd.dacBuf b = 0x80) ∧
    (s.snd.tmA = ⟨false, 0, 0⟩ ∧ s.snd.tmB = ⟨false, 0, 0⟩ ∧ s.snd.tover = 0 ∧ s.snd.dacEn = false ∧
      s.snd.dacLast = 0x80 ∧ s.snd.dacIdx = -1 ∧ s.snd.synthLog = []) ∧
    s.fault = none

/-- RESET gives every state element its value of column S of R62: against the power-on state, the mailbox, the
image, the save RAM's descriptor and bytes, the patches are kept, `active` is what LOAD computed, `wp` is 0, the
standard is the host's flag, and the log holds the reset mark (R484, R604). R62 is the spec's decision (its D45);
that `active` is 0 where no save RAM is present is log 18, the model's choice, that the flag is taken as it stands
and not sampled log 28. -/
def Obligations.SystemResetTable : Prop :=
  ∀ (s : State), s.ready → s.sched.inFrame = false →
    exec .hostReset s = .next
      { s with
        sched := { (State.powerOn s.cfg).sched with std := if s.host.pal.value = true then .pal else .ntsc }
        bus := { (State.powerOn s.cfg).bus with
          rom := s.bus.rom
          romLen := s.bus.romLen
          cartPresent := s.bus.cartPresent
          sram := { s.bus.sram with
            active := s.bus.sram.present && decide (s.bus.romLen ≤ s.bus.sram.start.toNat)
            wp := false }
          patches := s.bus.patches }
        vdp := (State.powerOn s.cfg).vdp
        snd := { (State.powerOn s.cfg).snd with synthLog := [.resetMark] }
        resp := .none }

/-- General RAM through its window (R208, R209): a read returns `ram[a & (RAM_SIZE-1)]` and changes nothing; a write
stores there, and every other byte of the machine keeps its value. -/
def Obligations.GeneralRamIsMirrored : Prop :=
  ∀ (s : State) (x : Ctx) (a : Addr), s.ready → inWin s.cfg.ramWin a = true →
    (∀ i, (i = .rd8 x a ∨ i = .rd8Ram x a) →
      exec i s = .next { s with resp := .byte (Memory.get 0 s.bus.ram (a.toNat &&& (s.cfg.ramSize - 1))) }) ∧
    (∀ i v, (i = .wr8 x a v ∨ i = .wr8Ram x a v) → Memory.wf 0 s.bus.ram →
      ∃ m, exec i s = .next { s with bus := { s.bus with ram := m }, resp := .none } ∧
        ∀ o, Memory.get 0 m o =
          if o = a.toNat &&& (s.cfg.ramSize - 1) then v else Memory.get 0 s.bus.ram o)

/-- Coprocessor RAM, the same bytes through the main bus's window (R210, R211) and through the AUX port (R242),
whatever the bank register holds. A store to coprocessor RAM, from either side (R211, R241, R242): one byte changes.
The AUX map (R166) is marked [from general knowledge]. -/
def Obligations.CoprocessorRamIsShared : Prop :=
  (∀ (s : State) (x : Ctx) (a : Addr) (b : AuxAddr) (t : Nat), s.ready → inWin s.cfg.zramWin a = true →
     b.toNat ≤ 0x3FFF → ∀ i o,
     (i = .rd8 x a ∨ i = .rd8Zram x a) ∧ o = a.toNat &&& (s.cfg.zramSize - 1) ∨
       i = .ardZram b t ∧ o = b.toNat &&& (s.cfg.zramSize - 1) →
     exec i s = .next { s with resp := .byte (Memory.get 0 s.bus.zram o) }) ∧
  (∀ (s : State) (x : Ctx) (a : Addr) (b : AuxAddr) (t : Nat) (v : Byte), s.ready → Memory.wf 0 s.bus.zram →
     inWin s.cfg.zramWin a = true → b.toNat ≤ 0x3FFF → ∀ i o,
     (i = .wr8 x a v ∨ i = .wr8Zram x a v) ∧ o = a.toNat &&& (s.cfg.zramSize - 1) ∨
       i = .awrZram b v t ∧ o = b.toNat &&& (s.cfg.zramSize - 1) →
     ∃ m, exec i s = .next { s with bus := { s.bus with zram := m }, resp := .none } ∧
       ∀ k, Memory.get 0 m k = if k = o then v else Memory.get 0 s.bus.zram k)

/-- The image is read at its own addresses, patches included, where no active save RAM covers it, and a write to it
changes nothing (R204, R205). -/
def Obligations.RomIsReadOnly : Prop :=
  ∀ (s : State) (x : Ctx) (a : Addr), s.ready → s.bus.romLen ≤ s.cfg.cartEnd + 1 → a.toNat < s.bus.romLen →
    ¬ (s.bus.sram.present = true ∧ s.bus.sram.active = true ∧ s.bus.sram.start.toNat ≤ a.toNat ∧
      a.toNat ≤ s.bus.sram.stop.toNat) →
    (∀ i, (i = .rd8 x a ∨ i = .rd8Rom x a) →
      exec i s = .next { s with resp := .byte (Memory.get 0 s.bus.rom a.toNat) }) ∧
    (∀ i v, (i = .wr8 x a v ∨ i = .wr8Rom x a v) → exec i s = .next { s with resp := .none })

/-- Active save RAM answers in its range, over the image too; a write is dropped while write-protect is set and
otherwise stores one byte (R206, R207). -/
def Obligations.SaveRamIsGated : Prop :=
  ∀ (s : State) (x : Ctx) (a : Addr), s.ready →
    let d := s.bus.sram
    d.present = true → d.active = true → d.start.toNat ≤ a.toNat → a.toNat ≤ d.stop.toNat →
    d.stop.toNat ≤ s.cfg.cartEnd →
    (∀ i, (i = .rd8 x a ∨ i = .rd8Sram x a) →
      exec i s = .next { s with resp := .byte (Memory.get 0 d.bytes (a.toNat - d.start.toNat)) }) ∧
    (∀ i v, (i = .wr8 x a v ∨ i = .wr8Sram x a v) →
      (d.wp = true → exec i s = .next { s with resp := .none }) ∧
      (d.wp = false → Memory.wf 0 d.bytes →
        ∃ m, exec i s = .next
            { s with bus := { s.bus with sram := { d with bytes := m } }, resp := .none } ∧
          ∀ o, Memory.get 0 m o = if o = a.toNat - d.start.toNat then v else Memory.get 0 d.bytes o))

/-- Where no device answers, and at the write-only registers, a read returns the address's high byte and changes
nothing (R236); where no device is, and at register 0 of the I/O block, a write changes nothing (R237). The even
lane of the I/O block has no device: the row IO.EVEN reads open bus and drops writes, as RD8 and WR8 there do (R236,
R237). That a row at an address that does not select it is the ordinary transaction there is log 10 (the model's
choice), that IO.EVEN goes both ways log 27. -/
def Obligations.NoDeviceIsOpenBus : Prop :=
  (∀ (s : State) (x : Ctx) (a : Addr), s.ready →
     (∀ i, noDevice s.cfg s.bus a ∨ writeOnly s.cfg a →
       (i = .rd8 x a ∨ i = .rd8Cartopen x a ∨ i = .rd8Open x a ∨ i = .rd8Vdp x a ∨ i = .rd8Vdpnone x a ∨
         i = .rd8Banksel x a ∨ i = .rd8Sramctl x a ∨ i = .rd8Psg x a) →
       exec i s = .next { s with resp := .byte (field a 16 8) }) ∧
     (∀ i v, noDevice s.cfg s.bus a ∨ (inWin s.cfg.ioWin a = true ∧ (field a 0 5).toNat = 1) →
       (i = .wr8 x a v ∨ i = .wr8Cartopen x a v ∨ i = .wr8Open x a v ∨ i = .wr8Vdp x a v ∨ i = .wr8Vdpnone x a v) →
       exec i s = .next { s with resp := .none })) ∧
  (∀ (s : State) (x : Ctx) (a : Addr) (v : Byte), s.ready → inWin s.cfg.ioWin a = true → a.getLsbD 0 = false →
     exec (.ioEven a .read) s = .next { s with resp := .byte (field a 16 8) } ∧
     exec (.ioEven a (.write v)) s = .next { s with resp := .none } ∧
     exec (.rd8Io x a) s = exec (.ioEven a .read) s ∧
     exec (.wr8Io x a v) s = exec (.ioEven a (.write v)) s)

/-- A word access outside the VDP's data and control ports is two byte accesses, the high byte's first, the second
address modulo 2^24 (R104, R201, R203). -/
def Obligations.WordAccessIsTwoByteAccesses : Prop :=
  ∀ (s : State) (x : Ctx) (a : Addr) (v : Half), s.ready →
    ¬ (inWin s.cfg.vdpWin a = true ∧ (field a 0 5).toNat < 8) →
    (∃ h l u, ∃ w : State, exec (.rd8 x a) s = .next u ∧ u.resp = .byte h ∧ exec (.rd8 x (a + 1)) u = .next w ∧
      w.resp = .byte l ∧ exec (.rd16 x a) s = .next { w with resp := .word (h ++ l) }) ∧
    (∃ u w : State, exec (.wr8 x a (field v 8 8)) s = .next u ∧ exec (.wr8 x (a + 1) (field v 0 8)) u = .next w ∧
      exec (.wr16 x a v) s = .next w)

/-- Every port of the FM block, and every AUX sound port, reads the overflow byte and changes nothing (R428, R214).
The AUX map (R166) is marked [from general knowledge]. -/
def Obligations.SoundPortsReadTheOverflowByte : Prop :=
  ∀ (s : State) (x : Ctx) (a : Addr) (b : AuxAddr) (t : Nat), s.ready → inWin s.cfg.fmWin a = true →
    0x4000 ≤ b.toNat → b.toNat ≤ 0x5FFF → ∀ i,
    (i = .rd8 x a ∨ i = .rd8Fm x a ∨ i = .rd8FmAny x a ∨ i = .ardFm b t) →
    exec i s = .next { s with resp := .byte s.snd.tover }

/-- A write of a bank's address port, on the main bus or through the AUX port, sets the bank's register number and
nothing else (R422, R150); a row of one bank's port at an address of the other's is the write at that address (log
10, the model's choice). The port layout (R150, R166) is marked [from general knowledge]. -/
def Obligations.FmAddressPortSelects : Prop :=
  ∀ (s : State) (x : Ctx) (a : Addr) (c : AuxAddr) (t : Nat) (v : Byte), s.ready → Memory.wf 0 s.snd.fmSel →
    ∀ i b,
    (inWin s.cfg.fmWin a = true ∧ a.getLsbD 0 = false ∧ b = (bit a 1).toNat ∧
        (i = .wr8 x a v ∨ i = .wr8Fm x a v ∨ i = .wr8FmAddr0 x a v ∨ i = .wr8FmAddr1 x a v)) ∨
      (0x4000 ≤ c.toNat ∧ c.toNat ≤ 0x5FFF ∧ c.getLsbD 0 = false ∧ b = (bit c 1).toNat ∧ i = .awrFm c v t) →
    ∃ m, exec i s = .next { s with snd := { s.snd with fmSel := m }, resp := .none } ∧
      ∀ k, Memory.get 0 m k = if k = b then v else Memory.get 0 s.snd.fmSel k

/-- A write of a bank's data port lands on the register the bank's latch selects, whichever row it is (R422, R162):
the row FMREG.OTHER says what happens, and the named rows are the named registers of bank 0. The port layout and the
register numbers (R150, R162) are marked [from general knowledge]; that a row of a named register acts as this write
is log 14, that a port's row at an address of the other bank is the write at that address log 10 (the model's
choice). -/
def Obligations.FmDataPortLandsOnTheSelectedRegister : Prop :=
  ∀ (s : State) (x : Ctx) (a : Addr) (q : AuxAddr) (n : Nat) (v : Byte), s.ready → inWin s.cfg.fmWin a = true →
    a.getLsbD 0 = true →
    (∃ t, exec (.fmregOther x (bit a 1) (Memory.get 0 s.snd.fmSel (bit a 1).toNat) v) s = .next t ∧
      ∀ i, (i = .wr8 x a v ∨ i = .wr8Fm x a v ∨ i = .wr8FmData0 x a v ∨ i = .wr8FmData1 x a v) →
        exec i s = .next t) ∧
    (0x4000 ≤ q.toNat → q.toNat ≤ 0x5FFF → q.getLsbD 0 = true →
      ∃ t, exec (.awrFm q v n) s = .next t ∧
        exec (.fmregOther ⟨.auxwin, n⟩ (bit q 1) (Memory.get 0 s.snd.fmSel (bit q 1).toNat) v) s = .next t) ∧
    (∀ i r, (i = .fmregMode x v ∧ r = s.cfg.regMode ∨ i = .fmregDacdata x v ∧ r = s.cfg.regDacdata ∨
        i = .fmregDacen x v ∧ r = s.cfg.regDacen ∨ i = .fmregTaHi x v ∧ r = 0x24 ∨
        i = .fmregTaLo x v ∧ r = 0x25 ∨ i = .fmregTb x v ∧ r = 0x26) →
      exec i s = exec (.fmregOther x 0 r v) s)

/-- A data write that lands on none of the three special registers is kept in the shadow and forwarded with its
time, and does nothing else (R422, R424); the time is the odometer of the device whose engine issued the
transaction, with its stamp, in microseconds of that device's clock (R21; the device of a master is log 20); the
timer value registers are such registers. The register numbers (R162) are marked [from general knowledge]; the rows
are read as in log 14. -/
def Obligations.OrdinaryFmRegisterIsShadowedAndForwarded : Prop :=
  ∀ (s : State) (x : Ctx) (b : BitVec 1) (r v : Byte), s.ready → Memory.wf 0 s.snd.fm →
    let d : Device := if x.master = .auxwin then .aux else .main
    let now := (s.sched.odo.get d + x.stamp) * 1000000 / (s.cfg.clockHz.get d).get s.sched.std
    ctxNow x s = now ∧
    ((b = 1 ∨ (r ≠ s.cfg.regMode ∧ r ≠ s.cfg.regDacdata ∧ r ≠ s.cfg.regDacen)) → ∀ i,
    (i = .fmregOther x b r v ∨ (b = 0 ∧ (i = .fmregTaHi x v ∧ r = 0x24 ∨ i = .fmregTaLo x v ∧ r = 0x25 ∨
      i = .fmregTb x v ∧ r = 0x26))) →
    ∃ m, exec i s = .next
        { s with
          snd := { s.snd with fm := m, synthLog := s.snd.synthLog ++ [.write .fm b.toNat r v now] }
          resp := .none } ∧
      ∀ k, Memory.get 0 m k = if k = b.toNat * 256 + r.toNat then v else Memory.get 0 s.snd.fm k)

/-- `ModeWrite` (R432, R434, R436): an enable bit that rises latches the period and starts the timer, one that stays
leaves it alone, one that is 0 stops it; an acknowledge bit at the level clears its overflow flag. The value alone
reads the FM registers as they stand. A data write on the mode register (R422): the shadow takes it first,
`ModeWrite` acts on the old and the new value with the periods of the FM registers as they then are, and the write
is forwarded. The periods and the bits (R430, R436, R162) are marked [from general knowledge]; the rows are read as
in log 14; a configuration may have another period (R15, log 26). -/
def Obligations.ModeWriteStartsAndStopsTimers : Prop :=
  ∀ (s : State) (x : Ctx) (v : Byte), s.ready →
    let now := ctxNow x s
    let old := Memory.get 0 s.snd.fm s.cfg.regMode.toNat
    let periodA := fun fm : Mem => match s.cfg.timerPeriod with
      | none => 18 * (1024 - ((Memory.get 0 fm 0x24).toNat * 4 + (Memory.get 0 fm 0x25).toNat % 4))
      | some k => Config.timerPeriod k false fm
    let periodB := fun fm : Mem => match s.cfg.timerPeriod with
      | none => 288 * (256 - (Memory.get 0 fm 0x26).toNat)
      | some k => Config.timerPeriod k true fm
    let timer := fun (n : Nat) (period : Nat) (m : Timer) =>
      if v.getLsbD n = false then { m with run := false }
      else if old.getLsbD n = true then m
      else ⟨true, period, now + period⟩
    ∃ o, exec (.modeValue x v) s = .next
        { s with
          snd := { s.snd with
            tmA := timer 0 (periodA s.snd.fm) s.snd.tmA
            tmB := timer 1 (periodB s.snd.fm) s.snd.tmB
            tover := o }
          resp := .none } ∧
      (Memory.wf 0 s.snd.fm → ∃ m, exec (.fmregMode x v) s = .next
          { s with
            snd := { s.snd with
              fm := m
              tmA := timer 0 (periodA m) s.snd.tmA
              tmB := timer 1 (periodB m) s.snd.tmB
              tover := o
              synthLog := s.snd.synthLog ++ [.write .fm 0 s.cfg.regMode v now] }
            resp := .none } ∧
        ∀ k, Memory.get 0 m k = if k = s.cfg.regMode.toNat then v else Memory.get 0 s.snd.fm k) ∧
      (o.getLsbD 0 = true ↔ s.snd.tover.getLsbD 0 = true ∧ v.getLsbD 4 ≠ s.cfg.timerAckLevel) ∧
      (o.getLsbD 1 = true ↔ s.snd.tover.getLsbD 1 = true ∧ v.getLsbD 5 ≠ s.cfg.timerAckLevel) ∧
      ∀ k, 2 ≤ k → o.getLsbD k = s.snd.tover.getLsbD k

/-- DAC capture (R442, R444, R446): while enabled, a data write is captured with the gap held, and disabling
captures the centre value; while disabled, both write nothing. The DAC registers (R422): a data write on them is
shadowed, acts as DACDATA or DACEN, and never reaches the log. The rows of the values and of the registers are read
as in log 14; the bit (R162) is marked [from general knowledge]. -/
def Obligations.DacCapture : Prop :=
  (∀ (s : State) (x : Ctx) (v : Byte), s.ready → Snd.inv s.cfg s.snd →
     (s.snd.dacEn = false → exec (.dacdataValue x v) s = .next { s with resp := .none }) ∧
     (s.snd.dacEn = true → ∃ y, exec (.dacdataValue x v) s = .next { s with snd := y, resp := .none } ∧
       Captured s.cfg (ctxNow x s) v s.snd y) ∧
     (v.getLsbD 7 = true →
       exec (.dacenValue x v) s = .next { s with snd := { s.snd with dacEn := true }, resp := .none }) ∧
     (v.getLsbD 7 = false → s.snd.dacEn = false → exec (.dacenValue x v) s = .next { s with resp := .none }) ∧
     (v.getLsbD 7 = false → s.snd.dacEn = true →
       ∃ y, exec (.dacenValue x v) s = .next { s with snd := { y with dacEn := false }, resp := .none } ∧
         Captured s.cfg (ctxNow x s) 0x80 s.snd y)) ∧
  (∀ (s : State) (x : Ctx) (v : Byte), s.ready → Memory.wf 0 s.snd.fm →
     s.cfg.regMode ≠ s.cfg.regDacdata → s.cfg.regMode ≠ s.cfg.regDacen → s.cfg.regDacdata ≠ s.cfg.regDacen →
     ∀ i j r, (i = .fmregDacdata x v ∧ j = .dacdataValue x v ∧ r = s.cfg.regDacdata ∨
       i = .fmregDacen x v ∧ j = .dacenValue x v ∧ r = s.cfg.regDacen) →
     ∃ m t, exec j s = .next t ∧ t.snd.synthLog = s.snd.synthLog ∧
       exec i s = .next { t with snd := { t.snd with fm := m } } ∧
       ∀ k, Memory.get 0 m k = if k = r.toNat then v else Memory.get 0 s.snd.fm k)

/-- A PSG byte is forwarded unchanged with its time, and nothing else happens, at the port and as a value (R235,
R426). The port offset (R149) is marked [from general knowledge]; the row of the value is read as in log 14. -/
def Obligations.PsgByteIsForwarded : Prop :=
  ∀ (s : State) (x : Ctx) (a : Addr) (v : Byte), s.ready → ∀ i,
    (i = .psgValue x v ∨ (inWin s.cfg.vdpWin a = true ∧ (field a 0 5).toNat = 0x11 ∧
      (i = .wr8 x a v ∨ i = .wr8Vdp x a v ∨ i = .wr8Psg x a v))) →
    exec i s = .next
      { s with
        snd := { s.snd with synthLog := s.snd.synthLog ++ [.write .psg 0 0 v (ctxNow x s)] }
        resp := .none }

/-- A bank select write, at any address of either window, shifts the register right and takes data bit 0 at the top;
nine of them load it, least significant bit first (R218, R244). R218 marks the direction and the data bit [from
general knowledge]; the row of the value is read as in log 14. -/
def Obligations.BankRegisterShifts : Prop :=
  (∀ (s : State) (x : Ctx) (a : Addr) (b : AuxAddr) (t : Nat) (v : Byte), s.ready → inWin s.cfg.bankWin a = true →
    0x6000 ≤ b.toNat → b.toNat ≤ 0x60FF → ∀ i,
    (i = .bankselValue v ∨ i = .wr8 x a v ∨ i = .wr8Banksel x a v ∨ i = .awrBanksel b v t) →
    ∃ k, exec i s = .next { s with bus := { s.bus with bank := k }, resp := .none } ∧
      k.getLsbD 8 = v.getLsbD 0 ∧ ∀ n, n < 8 → k.getLsbD n = s.bus.bank.getLsbD (n + 1)) ∧
  (∀ (s : State) (w : BitVec 9), s.ready →
    runAll ((List.range 9).map fun n => .bankselValue ((bit w n).setWidth 8)) s
      = some { s with bus := { s.bus with bank := w }, resp := .none })

/-- A save-RAM control write sets `active` from bit 0 and `wp` from bit 1 where save RAM is present, and does
nothing where it is not (R224). The bits (R153) are marked [from general knowledge]; the row of the value is read as
in log 14. -/
def Obligations.SaveRamControl : Prop :=
  ∀ (s : State) (x : Ctx) (v : Byte), s.ready → ∀ i,
    (i = .sramctlValue v ∨ i = .wr8 x s.cfg.sramctlAddr v ∨ i = .wr8Sramctl x s.cfg.sramctlAddr v) →
    (s.bus.sram.present = false → exec i s = .next { s with resp := .none }) ∧
    (s.bus.sram.present = true → exec i s = .next
      { s with
        bus := { s.bus with sram := { s.bus.sram with active := v.getLsbD 0, wp := v.getLsbD 1 } }
        resp := .none })

/-- The I/O registers read (R220), each by its own row and by RD8 at its address; a read changes nothing. A DATA
register gives the latch on driven lines and bit 7, the pad's report elsewhere. The layout (R151, R220) is marked
[from general knowledge]; the rows are read as in log 27. -/
def Obligations.IoRegistersRead : Prop :=
  ∀ (s : State) (x : Ctx) (a : Addr) (n : Nat), s.ready → n < 16 →
    inWin s.cfg.ioWin a = true → (field a 0 5).toNat = 2 * n + 1 →
    ∃ v, (∀ i, (i = ioRow .read n ∨ i = .rd8 x a ∨ i = .rd8Io x a) →
        exec i s = .next { s with resp := .byte v }) ∧
      (n = 0 → v.getLsbD 7 = s.cfg.regionOverseas ∧ v.getLsbD 6 = decide (s.sched.std = .pal) ∧
        v.getLsbD 5 = true ∧ ∀ k, k < 5 → v.getLsbD k = false) ∧
      (1 ≤ n → n ≤ 3 → ∀ k, k < 8 → v.getLsbD k =
        if k = 7 ∨ (Memory.get 0 s.bus.ioCtrl (n - 1)).getLsbD k = true
        then (Memory.get 0x7F s.bus.ioData (n - 1)).getLsbD k
        else (padByte s.cfg s.sched.padLatch s.bus (n - 1)).getLsbD k) ∧
      (4 ≤ n → n ≤ 6 → v = Memory.get 0 s.bus.ioCtrl (n - 4)) ∧
      (7 ≤ n → v = Memory.get 0 s.bus.ioSer (n - 7))

/-- The I/O registers written (R221), each by its own row and by WR8 at its address: register 0 takes nothing, a
DATA or CTRL write changes its register and the pad state of its own port only, a SER write its register only. The
layout (R151) is marked [from general knowledge]; the rows are read as in log 27. -/
def Obligations.IoRegistersWrite : Prop :=
  ∀ (s : State) (x : Ctx) (a : Addr) (v : Byte) (n : Nat), s.ready → n < 16 →
    inWin s.cfg.ioWin a = true → (field a 0 5).toNat = 2 * n + 1 →
    Memory.wf 0x7F s.bus.ioData → Memory.wf 0 s.bus.ioCtrl → Memory.wf 0 s.bus.ioSer →
    Memory.wf 0 s.bus.padPhase → Memory.wf 0 s.bus.padTimeout →
    ∃ b, (∀ i, (i = ioRow (.write v) n ∨ i = .wr8 x a v ∨ i = .wr8Io x a v) →
        exec i s = .next { s with bus := b, resp := .none }) ∧
      b = { s.bus with
            ioData := b.ioData, ioCtrl := b.ioCtrl, ioSer := b.ioSer, padPhase := b.padPhase,
            padTimeout := b.padTimeout } ∧
      (∀ k, Memory.get 0x7F b.ioData k = if n ≤ 3 ∧ n = k + 1 then v else Memory.get 0x7F s.bus.ioData k) ∧
      (∀ k, Memory.get 0 b.ioCtrl k = if n ≤ 6 ∧ n = k + 4 then v else Memory.get 0 s.bus.ioCtrl k) ∧
      (∀ k, Memory.get 0 b.ioSer k = if n = k + 7 then v else Memory.get 0 s.bus.ioSer k) ∧
      (∀ p, ¬ (p < s.cfg.nPads ∧ p < 3 ∧ (n = p + 1 ∨ n = p + 4)) →
        Memory.get 0 b.padPhase p = Memory.get 0 s.bus.padPhase p ∧
          Memory.get 0 b.padTimeout p = Memory.get 0 s.bus.padTimeout p)

/-- The toggle line and its edges (R226): a write that moves a pad's line clears its timeout, and one that raises it
advances the phase of a six-button pad; without an edge nothing moves. R226 is marked [from general knowledge]; the
rows are read as in log 27. -/
def Obligations.ToggleEdges : Prop :=
  ∀ (s t : State) (v : Byte) (p n : Nat), s.ready → p < s.cfg.nPads → p < 3 → (n = p + 1 ∨ n = p + 4) →
    Memory.wf 0 s.bus.padPhase → Memory.wf 0 s.bus.padTimeout → exec (ioRow (.write v) n) s = .next t →
    (thLine t.bus p = thLine s.bus p → t.bus.padPhase = s.bus.padPhase ∧ t.bus.padTimeout = s.bus.padTimeout) ∧
    (thLine t.bus p ≠ thLine s.bus p → Memory.get 0 t.bus.padTimeout p = 0 ∧
      Memory.get 0 t.bus.padPhase p =
        if thLine t.bus p = true ∧ sixButton s.cfg p = true then Memory.get 0 s.bus.padPhase p + 1
        else Memory.get 0 s.bus.padPhase p)

/-- What a pad reports (R227, R228): bit 7 is 0, bit 6 the toggle line, bits 5:0 the table's row for the line and
the phase; `k` is the pad's half of the pad word. The expansion port reports 0x7F (R220), also where `N_PADS` is 3
or more, and pads beyond the pad word's two halves are left out (log 28). R227 is marked [from general knowledge],
R228 is the spec's own layout. -/
def Obligations.PadReport : Prop :=
  ∀ (c : Cfg) (latch : BitVec 32) (b : Bus) (p : Nat), padByte c latch b 2 = 0x7F ∧ (p < c.nPads → p < 2 →
    let v := padByte c latch b p
    let ph := Memory.get 0 b.padPhase p
    let k := fun n => latch.getLsbD (16 * p + n)
    v.getLsbD 7 = false ∧ v.getLsbD 6 = thLine b p ∧
    (thLine b p = true → ph ≠ 3 → ∀ n, n < 6 → v.getLsbD n = k n) ∧
    (thLine b p = true → ph = 3 →
      [v.getLsbD 5, v.getLsbD 4, v.getLsbD 3, v.getLsbD 2, v.getLsbD 1, v.getLsbD 0]
        = [k 5, k 4, k 11, k 10, k 9, k 8]) ∧
    (thLine b p = false → (ph = 0 ∨ ph = 1) →
      [v.getLsbD 5, v.getLsbD 4, v.getLsbD 3, v.getLsbD 2, v.getLsbD 1, v.getLsbD 0]
        = [k 7, k 6, false, false, k 1, k 0]) ∧
    (thLine b p = false → ph = 2 →
      [v.getLsbD 5, v.getLsbD 4, v.getLsbD 3, v.getLsbD 2, v.getLsbD 1, v.getLsbD 0]
        = [k 7, k 6, false, false, false, false]) ∧
    (thLine b p = false → ph = 3 →
      [v.getLsbD 5, v.getLsbD 4, v.getLsbD 3, v.getLsbD 2, v.getLsbD 1, v.getLsbD 0]
        = [k 7, k 6, true, true, true, true]))

/-- A register set (R326, R343), as its own row and as a word or both bytes of a word at the control port with no
command pending: one register and the two global dirty bits change, nothing else. The word (R156) is marked [from
general knowledge]; that the row is a word at the control port is log 11. -/
def Obligations.RegisterSet : Prop :=
  ∀ (s : State) (x : Ctx) (a : Addr) (z : BitVec 1) (r : BitVec 5) (d : Byte), s.ready → Memory.wf 0 s.vdp.vr →
    s.vdp.pend = false → inWin s.cfg.vdpWin a = true → 4 ≤ (field a 0 5).toNat → (field a 0 5).toNat < 8 → ∀ i,
    (i = .regset z r d ∨ i = .wr16 x a (regsetWord z r d) ∨ i = .wr16Vdpctrl x a (regsetWord z r d) ∨
      (regsetWord z r d = d ++ d ∧ (i = .wr8 x a d ∨ i = .wr8Vdp x a d ∨ i = .wr8Vdpctrl x a d))) →
    ∃ m, exec i s = .next
        { s with vdp := { s.vdp with vr := m, dirtyPalette := true, dirtySprite := true }, resp := .none } ∧
      ∀ n, Memory.get 0 m n = if n = r.toNat then d else Memory.get 0 s.vdp.vr n

/-- A first half, by its row and at the control port by word (R232), or by byte on both lanes (R233), changes only
the pending flag and the kept half (R324); the second half, whatever its top bits, makes the command (R156, R157):
the code and the address take the fields, a set of ignored bits plays no part, an armed fill is disarmed. The fields
are shown for a command that starts no DMA. While a command is pending every control word is its second half, a
register-set pattern included (R156, R324): CMD2, REGSET and CMD1 words of the same value do the same, by row and at
the port by word and by byte. The words and the lanes (R156, R157, R233) are marked [from general knowledge]; the
rows are read as in log 11. -/
def Obligations.CommandHalvesAssemble : Prop :=
  (∀ (s : State) (c : BitVec 2) (a : BitVec 14), s.ready → s.vdp.pend = false → c ≠ 2 → ∀ i,
     (i = .cmd1 c a ∨ ctrlPortWord s.cfg (cmd1Word c a) i) →
     exec i s = .next { s with vdp := { s.vdp with pend := true, cmdHi := c ++ a }, resp := .none } ∧
     ∀ (x : BitVec 8) (cc : BitVec 4) (y aa : BitVec 2) (j : Instr),
       (cc.getLsbD 3 = false ∨ (vreg s.vdp 1).getLsbD 4 = false) →
       (j = .cmd2 x cc y aa ∨ ctrlPortWord s.cfg (cmd2Word x cc y aa) j) →
       runAll [i, j] s = some
         { s with
           vdp := { s.vdp with pend := false, cmdHi := c ++ a, code := cc ++ c, addr := aa ++ a, fillArmed := false }
           resp := .none }) ∧
  (∀ (s : State) (w : Half), s.ready → s.vdp.pend = true →
     ∃ t, exec (.command (cmdFields (s.vdp.cmdHi ++ w))) { s with vdp := { s.vdp with pend := false } } = .next t ∧
       ∀ i, ((∃ z r d, w = regsetWord z r d ∧ i = .regset z r d) ∨ (∃ c a, w = cmd1Word c a ∧ i = .cmd1 c a) ∨
           (∃ x cc y aa, w = cmd2Word x cc y aa ∧ i = .cmd2 x cc y aa) ∨ ctrlPortWord s.cfg w i) →
         exec i s = .next t)

/-- A command without the DMA flag, or with DMA disabled, sets the code and the address, disarms a fill, and does
nothing else (R328, R157), in every row of a command word. A well-formed word of a transfer-mode row has that mode's
code in bits 3:0 (R158), and a word of the invalid row none of the six; a word of the DMA row has the flag (R157).
The layout (R157, R158) is marked [from general knowledge]; the rows are read as in log 12. -/
def Obligations.PlainCommand : Prop :=
  (∀ (s : State) (w : CmdWord), s.ready → (w.cc.getLsbD 3 = false ∨ (vreg s.vdp 1).getLsbD 4 = false) → ∀ i,
     (i = .command w ∨ i = .modeVramRd w ∨ i = .modeVramWr w ∨ i = .modeCramWr w ∨ i = .modeVsramRd w ∨
       i = .modeVsramWr w ∨ i = .modeCramRd w ∨ i = .modeInvalid w ∨ i = .dmaflag w) →
     exec i s = .next
       { s with
         vdp := { s.vdp with code := w.cc ++ w.c, addr := w.aa ++ w.a, fillArmed := false }
         resp := .none }) ∧
  (∀ w : CmdWord,
     ((Instr.modeVramRd w).wf = true → field (w.cc ++ w.c) 0 4 = 0b0000) ∧
     ((Instr.modeVramWr w).wf = true → field (w.cc ++ w.c) 0 4 = 0b0001) ∧
     ((Instr.modeCramWr w).wf = true → field (w.cc ++ w.c) 0 4 = 0b0011) ∧
     ((Instr.modeVsramRd w).wf = true → field (w.cc ++ w.c) 0 4 = 0b0100) ∧
     ((Instr.modeVsramWr w).wf = true → field (w.cc ++ w.c) 0 4 = 0b0101) ∧
     ((Instr.modeCramRd w).wf = true → field (w.cc ++ w.c) 0 4 = 0b1000) ∧
     ((Instr.modeInvalid w).wf = true ↔
       field (w.cc ++ w.c) 0 4 ∉ [0b0000#4, 0b0001#4, 0b0011#4, 0b0100#4, 0b0101#4, 0b1000#4]) ∧
     ((Instr.dmaflag w).wf = true ↔ w.cc.getLsbD 3 = true))

/-- A data word with no fill armed (R334, R335, R336, R160), by its row and at the data port by word, or by byte on
both lanes (R231): `pend` clears, the address moves by VR[15] in every mode, and the target of the mode takes the
word. The codes and the byte placement (R158, R160, R335) are marked [from general knowledge]; a memory of size 0,
which R18 admits, takes nothing (log 30, the model's choice). -/
def Obligations.DataWordLandsByMode : Prop :=
  ∀ (s : State) (x : Ctx) (a : Addr) (d : Half), s.ready → Vdp.tables s.cfg s.vdp → s.vdp.fillArmed = false →
    inWin s.cfg.vdpWin a = true → (field a 0 5).toNat < 4 → ∀ i,
    (i = .vdataWr d ∨ i = .wr16 x a d ∨ i = .wr16Vdpdata x a d ∨
      (∃ v, d = v ++ v ∧ (i = .wr8 x a v ∨ i = .wr8Vdp x a v ∨ i = .wr8Vdpdata x a v))) →
    let v := { s.vdp with pend := false, addr := s.vdp.addr + (vreg s.vdp 15).setWidth 16 }
    let A := s.vdp.addr.toNat % s.cfg.vramSize
    let e := (field s.vdp.addr 1 6).toNat
    let mode := field s.vdp.code 0 4
    (mode = 0b0001 → ∃ m g, exec i s = .next
        { s with vdp := { v with vram := m, dirtyVram := g, dirtySprite := true }, resp := .none } ∧
      (∀ k, Memory.get 0 m k = if k = A ∧ A < s.cfg.vramSize then field d 8 8
        else if k = A ^^^ 1 ∧ A < s.cfg.vramSize then field d 0 8 else Memory.get 0 s.vdp.vram k) ∧
      (∀ k, Memory.get false g k =
        if k = A / 256 ∧ A < s.cfg.vramSize then true else Memory.get false s.vdp.dirtyVram k)) ∧
    (mode = 0b0011 → ∃ m g, exec i s = .next
        { s with vdp := { v with cram := m, dirtyCram := g, dirtyPalette := true }, resp := .none } ∧
      (∀ k, Memory.get 0 m k = if k = e % s.cfg.cramN ∧ k < s.cfg.cramN then d else Memory.get 0 s.vdp.cram k) ∧
      (∀ k, Memory.get false g k =
        if k = e % s.cfg.cramN ∧ k < s.cfg.cramN then true else Memory.get false s.vdp.dirtyCram k)) ∧
    (mode = 0b0101 → e < s.cfg.vsramN → ∃ m, exec i s = .next
        { s with vdp := { v with vsram := m }, resp := .none } ∧
      (∀ k, Memory.get 0 m k = if k = e then d else Memory.get 0 s.vdp.vsram k)) ∧
    (mode = 0b0101 → s.cfg.vsramN ≤ e → exec i s = .next { s with vdp := v, resp := .none }) ∧
    (mode ∉ [0b0001#4, 0b0011#4, 0b0101#4] → exec i s = .next { s with vdp := v, resp := .none })

/-- A data-port read (R338, R160): the value by mode, `pend` cleared, the address moved, nothing else; a byte read
is the same with one lane of the word (R231). The codes and the lanes (R158, R160, R231) are marked [from general
knowledge]; what a memory of size 0 reads is a free value (log 30). -/
def Obligations.DataReadByMode : Prop :=
  ∀ (s : State) (x : Ctx) (a : Addr), s.ready → inWin s.cfg.vdpWin a = true → (field a 0 5).toNat < 4 →
    let v := { s.vdp with pend := false, addr := s.vdp.addr + (vreg s.vdp 15).setWidth 16 }
    let A := s.vdp.addr.toNat % s.cfg.vramSize
    let e := (field s.vdp.addr 1 6).toNat
    let mode := field s.vdp.code 0 4
    ∃ w : Half,
      (∀ i, (i = .vdataRd ∨ i = .rd16 x a ∨ i = .rd16Vdpdata x a) →
        exec i s = .next { s with vdp := v, resp := .word w }) ∧
      (∀ i, (i = .rd8 x a ∨ i = .rd8Vdp x a ∨ i = .rd8Vdpdata x a) →
        exec i s = .next { s with vdp := v, resp := .byte (if a.getLsbD 0 then field w 0 8 else field w 8 8) }) ∧
      (mode = 0b0000 → 0 < s.cfg.vramSize →
        w = Memory.get 0 s.vdp.vram (A - A % 2) ++ Memory.get 0 s.vdp.vram (A - A % 2 + 1)) ∧
      (mode = 0b1000 → 0 < s.cfg.cramN → w = Memory.get 0 s.vdp.cram (e % s.cfg.cramN)) ∧
      (mode = 0b0100 → w = if e < s.cfg.vsramN then Memory.get 0 s.vdp.vsram e else 0) ∧
      (mode ∉ [0b0000#4, 0b1000#4, 0b0100#4] → w = 0)

/-- A control-port read (R332, R233): the status word bit by bit; `pend` clears and nothing else changes. R332 marks
the positions of the bits [from general knowledge]. -/
def Obligations.StatusRead : Prop :=
  ∀ (s : State) (x : Ctx) (a : Addr), s.ready → inWin s.cfg.vdpWin a = true → 4 ≤ (field a 0 5).toNat →
    (field a 0 5).toNat < 8 →
    ∃ w : Half,
      (∀ i, (i = .vstat ∨ i = .rd16 x a ∨ i = .rd16Vdpctrl x a) →
        exec i s = .next { s with vdp := { s.vdp with pend := false }, resp := .word w }) ∧
      (∀ i, (i = .rd8 x a ∨ i = .rd8Vdp x a ∨ i = .rd8Vdpctrl x a) →
        exec i s = .next
          { s with
            vdp := { s.vdp with pend := false }
            resp := .byte (if a.getLsbD 0 then field w 0 8 else field w 8 8) }) ∧
      w.getLsbD 9 = true ∧ w.getLsbD 7 = s.vdp.stF ∧ w.getLsbD 3 = s.vdp.stVblank ∧
      w.getLsbD 2 = s.vdp.stHblank ∧ w.getLsbD 0 = decide (s.sched.std = .pal) ∧
      ∀ k, k ∉ [9, 7, 3, 2, 0] → w.getLsbD k = false

/-- Starting a DMA (R350, R328, R159): a command with the flag while DMA is enabled, in every row of a command word,
sets the code and the address and starts what VR[23] selects, now for a bus transfer or a copy; a fill is only
armed. The mode bits (R159) are marked [from general knowledge]; the rows are read as in logs 12 and 13. -/
def Obligations.DmaStartsByMode : Prop :=
  ∀ (s : State) (w : CmdWord), s.ready →
    ((vreg s.vdp 23).getLsbD 7 = false →
      ∃ t, exec (.dmaBus (field (vreg s.vdp 23) 0 7)) s = .next t ∧ exec .dmastart s = .next t) ∧
    ((vreg s.vdp 23).getLsbD 7 = true → (vreg s.vdp 23).getLsbD 6 = false →
      exec .dmastart s = .next { s with vdp := { s.vdp with fillArmed := true }, resp := .none }) ∧
    ((vreg s.vdp 23).getLsbD 7 = true → (vreg s.vdp 23).getLsbD 6 = true →
      ∃ t, exec (.dmaCopy (field (vreg s.vdp 23) 0 6)) s = .next t ∧ exec .dmastart s = .next t) ∧
    (w.cc.getLsbD 3 = true → (vreg s.vdp 1).getLsbD 4 = true → ∀ i,
      (i = .command w ∨ i = .dmaflag w ∨ i = .modeVramRd w ∨ i = .modeVramWr w ∨ i = .modeCramWr w ∨
        i = .modeVsramRd w ∨ i = .modeVsramWr w ∨ i = .modeCramRd w ∨ i = .modeInvalid w) →
      exec i s = exec .dmastart
        { s with vdp := { s.vdp with code := w.cc ++ w.c, addr := w.aa ++ w.a, fillArmed := false } })

/-- A fill (R352, R356, R358): `n` units from the address on, each at the address with bit 0 changed, then the
address stands `n` increments on, the length is 0, the video RAM holds the byte exactly at those places, and exactly
their regions are marked changed (R340). R352, R356 and R358 are marked [from general knowledge]; the row is read as
in log 13, a memory of size 0 as in log 30. -/
def Obligations.DmaFillsItsAddresses : Prop :=
  ∀ (s : State) (z : BitVec 6) (b : Byte), s.ready → Vdp.tables s.cfg s.vdp →
    let n := if vreg s.vdp 19 = 0 ∧ vreg s.vdp 20 = 0 then 0x10000
      else (vreg s.vdp 20).toNat * 256 + (vreg s.vdp 19).toNat
    let at_ := fun j : Nat => ((s.vdp.addr + BitVec.ofNat 16 (j * (vreg s.vdp 15).toNat)) ^^^ 1).toNat % s.cfg.vramSize
    ∃ m r g, exec (.dmaFill z b) s = .next
        { s with
          vdp := { s.vdp with
            vram := m
            vr := r
            dirtyVram := g
            dirtySprite := true
            addr := s.vdp.addr + BitVec.ofNat 16 (n * (vreg s.vdp 15).toNat) }
          resp := .none } ∧
      (∀ k, k < s.cfg.vramSize → (∃ j, j < n ∧ k = at_ j) →
        Memory.get 0 m k = b ∧ Memory.get false g (k / 256) = true) ∧
      (∀ k, (s.cfg.vramSize ≤ k ∨ ∀ j, j < n → k ≠ at_ j) → Memory.get 0 m k = Memory.get 0 s.vdp.vram k) ∧
      (∀ k, (∀ j, j < n → at_ j < s.cfg.vramSize → k ≠ at_ j / 256) →
        Memory.get false g k = Memory.get false s.vdp.dirtyVram k) ∧
      (∀ k, Memory.get 0 r k = if k = 19 ∨ k = 20 then 0 else vreg s.vdp k)

/-- A data word with a fill armed (R334), by its row and at the data port by word (R230), or by byte on both lanes
(R231): the word is an ordinary unit, then the fill is disarmed and, for a VRAM target only, runs with the word's
high byte. The lanes and the high byte (R231, R356) are marked [from general knowledge]; the row DMA_FILL is read as
in log 13. -/
def Obligations.ArmedFillRunsAfterItsWord : Prop :=
  ∀ (s : State) (z : BitVec 6) (d : Half), s.ready → s.vdp.fillArmed = true →
    ∃ u, exec (.vdataWr d) { s with vdp := { s.vdp with fillArmed := false } } = .next u ∧
      ∀ i, (i = .vdataWr d ∨ dataPortWord s.cfg d i) →
        (field s.vdp.code 0 4 = 0b0001 → ∃ t, exec (.dmaFill z (field d 8 8)) u = .next t ∧ exec i s = .next t) ∧
        (field s.vdp.code 0 4 ≠ 0b0001 → exec i s = .next u)

/-- A copy (R357, R358): only video RAM, its dirty bits, the address and the DMA registers change; the address and
the source stand `n` units on, the length is 0; a copy of one byte moves that byte, one of more is that byte and
then the copy of the rest, and a byte that no unit addresses stays; exactly the regions of the addresses are marked
changed (R340). R352, R357 and R358 are marked [from general knowledge]; the row is read as in log 13, a memory of
size 0 as in log 30. -/
def Obligations.DmaCopiesWithinVram : Prop :=
  ∀ (s : State) (z : BitVec 6), s.ready → Vdp.tables s.cfg s.vdp →
    let n := if vreg s.vdp 19 = 0 ∧ vreg s.vdp 20 = 0 then 0x10000
      else (vreg s.vdp 20).toNat * 256 + (vreg s.vdp 19).toNat
    let src : Half := vreg s.vdp 22 ++ vreg s.vdp 21
    let at_ := fun j : Nat => (s.vdp.addr + BitVec.ofNat 16 (j * (vreg s.vdp 15).toNat)).toNat % s.cfg.vramSize
    let length := fun (m : Half) (t : State) =>
      { t with vdp := { t.vdp with vr := Memory.put 0 (Memory.put 0 t.vdp.vr 19 (field m 0 8)) 20 (field m 8 8) } }
    ∃ m r g, exec (.dmaCopy z) s = .next
        { s with
          vdp := { s.vdp with
            vram := m
            vr := r
            dirtyVram := g
            dirtySprite := true
            addr := s.vdp.addr + BitVec.ofNat 16 (n * (vreg s.vdp 15).toNat) }
          resp := .none } ∧
      (∀ k, Memory.get 0 r k =
        if k = 19 ∨ k = 20 then 0
        else if k = 21 then field (src + BitVec.ofNat 16 n) 0 8
        else if k = 22 then field (src + BitVec.ofNat 16 n) 8 8
        else vreg s.vdp k) ∧
      (∀ k, (∀ j, j < n → k ≠ at_ j) → Memory.get 0 m k = Memory.get 0 s.vdp.vram k) ∧
      (∀ j, j < n → at_ j < s.cfg.vramSize → Memory.get false g (at_ j / 256) = true) ∧
      (∀ k, (∀ j, j < n → at_ j < s.cfg.vramSize → k ≠ at_ j / 256) →
        Memory.get false g k = Memory.get false s.vdp.dirtyVram k) ∧
      (n = 1 → ∀ k, Memory.get 0 m k =
        if k = at_ 0 ∧ k < s.cfg.vramSize then Memory.get 0 s.vdp.vram (src.toNat % s.cfg.vramSize)
        else Memory.get 0 s.vdp.vram k) ∧
      (1 < n → ∃ u, exec (.dmaCopy z) (length 1 s) = .next u ∧
        exec (.dmaCopy z) (length (BitVec.ofNat 16 (n - 1)) u) = exec (.dmaCopy z) s)

/-- A bus transfer (R354, R358): nothing outside the VDP changes, the code does not, the length is 0 and the source
counter stands `n` words on. A transfer of one word is a word read by the DMA and a data unit of that word: the
data-port write of R335 and R336, which leaves the pending flag and an armed fill alone; one of more is that word
and then the transfer of the rest. A memory the code does not select stays; with its source in general RAM, the
address stands `n` increments on and a byte of video RAM that no unit addresses stays. R352, R354 and R358 are
marked [from general knowledge]; the row is read as in log 13. -/
def Obligations.DmaTransfersFromTheBus : Prop :=
  ∀ (s : State) (hi : BitVec 7), s.ready → Vdp.tables s.cfg s.vdp →
    let n := if vreg s.vdp 19 = 0 ∧ vreg s.vdp 20 = 0 then 0x10000
      else (vreg s.vdp 20).toNat * 256 + (vreg s.vdp 19).toNat
    let src : Half := vreg s.vdp 22 ++ vreg s.vdp 21
    let a := fun j : Nat => (hi ++ (src + BitVec.ofNat 16 j) ++ 0#1 : Addr)
    let at_ := fun j : Nat => (s.vdp.addr + BitVec.ofNat 16 (j * (vreg s.vdp 15).toNat)).toNat % s.cfg.vramSize
    let mode := field s.vdp.code 0 4
    let length := fun (m : Half) (t : State) =>
      { t with vdp := { t.vdp with vr := Memory.put 0 (Memory.put 0 t.vdp.vr 19 (field m 0 8)) 20 (field m 8 8) } }
    ∃ v, exec (.dmaBus hi) s = .next { s with vdp := v, resp := .none } ∧ v.code = s.vdp.code ∧
      (∀ k, vreg v k =
        if k = 19 ∨ k = 20 then 0
        else if k = 21 then field (src + BitVec.ofNat 16 n) 0 8
        else if k = 22 then field (src + BitVec.ofNat 16 n) 8 8
        else vreg s.vdp k) ∧
      (mode ≠ 0b0001 → v.vram = s.vdp.vram) ∧ (mode ≠ 0b0011 → v.cram = s.vdp.cram) ∧
      (mode ≠ 0b0101 → v.vsram = s.vdp.vsram) ∧
      ((∀ j, j < n → inWin s.cfg.ramWin (a j) = true ∧ inWin s.cfg.ramWin (a j + 1) = true) →
        v.addr = s.vdp.addr + BitVec.ofNat 16 (n * (vreg s.vdp 15).toNat) ∧
        ∀ k, (∀ j, j < n → k ≠ at_ j ∧ k ≠ at_ j ^^^ 1) → Memory.get 0 v.vram k = Memory.get 0 s.vdp.vram k) ∧
      (n = 1 → ∃ t w, ∃ u : State, exec (.rd16 ⟨.dma, 0⟩ (a 0)) s = .next t ∧ t.resp = .word w ∧
        exec (.vdataWr w) { t with vdp := { t.vdp with fillArmed := false } } = .next u ∧
        v = { u.vdp with pend := t.vdp.pend, fillArmed := s.vdp.fillArmed, vr := v.vr }) ∧
      (1 < n → ∃ u, exec (.dmaBus hi) (length 1 s) = .next u ∧
        exec (.dmaBus hi) (length (BitVec.ofNat 16 (n - 1)) u) = exec (.dmaBus hi) s)

/-- The AUX addresses without a main-bus side (R240, R241, R244, R247): the bank select line reads 0xFF; an address
with no device reads 0xFF and drops writes. The two AUX windows onto the main bus (R245, R246): a byte access there
is the main-bus byte access at the window's address, with master AUXWIN and the same stamp, and all of its effects.
R245, R246 and R247 are marked [from general knowledge] or the spec's choice. -/
def Obligations.AuxPort : Prop :=
  (∀ (s : State) (a : AuxAddr) (t : Nat) (v : Byte), s.ready →
     (0x6000 ≤ a.toNat → a.toNat ≤ 0x60FF → exec (.ardBanksel a t) s = .next { s with resp := .byte 0xFF }) ∧
     (0x6100 ≤ a.toNat ∧ a.toNat ≤ 0x7EFF ∨ 0x7F20 ≤ a.toNat ∧ a.toNat ≤ 0x7FFF →
       exec (.ardNone a t) s = .next { s with resp := .byte 0xFF } ∧
       exec (.awrNone a v t) s = .next { s with resp := .none })) ∧
  (∀ (s : State) (a : AuxAddr) (t : Nat) (v : Byte), s.ready → ∀ r w m,
     (0x8000 ≤ a.toNat ∧ r = .ardBankwin a t ∧ w = .awrBankwin a v t ∧ m = s.bus.bank ++ field a 0 15) ∨
       (0x7F00 ≤ a.toNat ∧ a.toNat ≤ 0x7F1F ∧ r = .ardVdpwin a t ∧ w = .awrVdpwin a v t ∧
         m = (s.cfg.vdpWin.base ||| (field a 0 5).setWidth 24)) →
     (∃ u, exec r s = .next u ∧ exec (.rd8 ⟨.auxwin, t⟩ m) s = .next u) ∧
     (∃ u, exec w s = .next u ∧ exec (.wr8 ⟨.auxwin, t⟩ m v) s = .next u))

/-- The level the MAIN engine reads (R554): the vertical level while that interrupt is pending and enabled, else the
horizontal one's, else 0; an engine that looks is given it (R284). `IntAck` (R556): a pending and enabled vertical
interrupt acknowledged at its level clears its latch and `st_f` and answers its vector, a horizontal one clears its
latch, anything else is spurious and changes nothing. R554 and R556 mark the enable bits and the vectors [from
general knowledge]; the rows are read as in log 24, the vector of a level beyond 231 is its low 8 bits by log 33,
and that an engine's call is a recorded one is log 6. -/
def Obligations.InterruptAcknowledge : Prop :=
  ∀ (s : State), s.ready →
    let v := s.sched.irqV = true ∧ (vreg s.vdp 1).getLsbD 5 = true
    let h := s.sched.irqH = true ∧ (vreg s.vdp 0).getLsbD 4 = true
    let level := if v then s.cfg.vintLevel else if h then s.cfg.hintLevel else 0
    (∀ b c rest, s.engines.main = ⟨[.look], c⟩ :: rest → c ≤ b → ipl s = level ∧
      exec (.execute .main b) s = .next
        { s with
          engines := { s.engines with main := rest }
          calls := s.calls + 1
          engResps := [.level level]
          resp := .consumed c }) ∧
    ∀ i n, (i = .ackV ∧ n = s.cfg.vintLevel ∨ i = .ackH ∧ n = s.cfg.hintLevel ∨
        ∃ l : BitVec 3, i = .ackSpurious l ∧ n = l.toNat) →
      (n = s.cfg.vintLevel → v → exec i s = .next
        { s with
          sched := { s.sched with irqV := false }
          vdp := { s.vdp with stF := false }
          resp := .vector (BitVec.ofNat 8 (24 + n)) }) ∧
      (n = s.cfg.hintLevel → h → ¬ (n = s.cfg.vintLevel ∧ v) → exec i s = .next
        { s with sched := { s.sched with irqH := false }, resp := .vector (BitVec.ofNat 8 (24 + n)) }) ∧
      (¬ (n = s.cfg.vintLevel ∧ v) → ¬ (n = s.cfg.hintLevel ∧ h) →
        exec i s = .next { s with resp := .vector 24 })

/-- One `Execute` call (R284, R280, R570), for every recorded list of events. While the events are the device's own
and no stamp falls, they are performed in order, each by its row of the opcode table, a write of the host and MAIN's
read of the level among them, and every response is kept for the engine; with no stamp above the count and the count
within the budget the call then answers its count, and no fault is recorded. Every first breach of either device
records its fault on the state the events before it left: a stamp that falls, an operation of the other agent, a
stamp above the count, a count above the budget. That an engine's call is a recorded one is log 6, the order of the
checks and AUX's read of the level log 16, that EXECUTE alone leaves the odometer log 23, an acknowledge of level 0
log 24. -/
def Obligations.EngineContract : Prop :=
  ∀ (s : State) (d : Device) (b c : Nat) (ev : List Event) (rest : List EngCall),
    s.ready → s.engines.get d = ⟨ev, c⟩ :: rest →
    let start := { s with engines := s.engines.set d rest, calls := s.calls + 1, engResps := [] }
    let good := fun l : List Event => (∀ e ∈ l, ownEvent d e = true) ∧ (eventStamps l).Pairwise (· ≤ ·)
    let ends := fun (u : State) (f : Fault) => exec (.execute d b) s = .next { u with fault := some f }
    (good ev → ∃ u, performed d ev start = some u ∧ u.fault = none ∧
      ((∀ t ∈ eventStamps ev, t ≤ c) → c ≤ b → exec (.execute d b) s = .next { u with resp := .consumed c }) ∧
      ((∀ t ∈ eventStamps ev, t ≤ c) → b < c → ends u (.engineOverrun d b c)) ∧
      ((∃ t ∈ eventStamps ev, c < t) → ends u (.engineStamp d))) ∧
    (∀ pre e post, ev = pre ++ e :: post → good pre → ∃ u, performed d pre start = some u ∧
      (∀ t o, e = .op t o → (∃ x ∈ eventStamps pre, t < x) → ends u (.engineStamp d)) ∧
      (∀ t o, e = .op t o → (∀ x ∈ eventStamps pre, x ≤ t) → engineRow d t o = none → ends u (.engineAgent d)) ∧
      (e = .look → d = .aux → ends u (.engineAgent d)))

/-- RUNTO (R280) for every behaviour of the engine: the target is set; with the odometer at or past it nothing else
happens; below it one call is made for what is missing, its count is added, and unless a fault is recorded the
odometer does not fall, does not pass the target, and the other device's stays. A call that does nothing adds its
count, one that overruns records the fault. That an engine's call is a recorded one is log 6. -/
def Obligations.RunToArbitrates : Prop :=
  ∀ (s : State) (d : Device) (T : Nat), s.ready →
    let at_ := { s with sched := { s.sched with tgt := s.sched.tgt.set d T } }
    ∃ t, exec (.runto d T) s = .next t ∧ t.sched.tgt = s.sched.tgt.set d T ∧
      (T ≤ s.sched.odo.get d → t = { at_ with resp := .none }) ∧
      (s.sched.odo.get d < T → t.calls = s.calls + 1 ∧
        (t.fault = none → s.sched.odo.get d ≤ t.sched.odo.get d ∧ t.sched.odo.get d ≤ T ∧
          ∀ e, e ≠ d → t.sched.odo.get e = s.sched.odo.get e) ∧
        (t.fault ≠ none → t.sched.odo = s.sched.odo) ∧
        (∃ u, exec (.execute d (T - s.sched.odo.get d)) at_ = .next u ∧
          (u.fault ≠ none → t = { u with resp := .none }) ∧
          (u.fault = none → ∃ c, u.resp = .consumed c ∧ t =
            { u with
              sched := { u.sched with odo := u.sched.odo.set d (u.sched.odo.get d + c) }
              resp := .none })) ∧
        ∀ c rest, s.engines.get d = ⟨[], c⟩ :: rest →
          (c ≤ T - s.sched.odo.get d → t =
            { at_ with
              sched := { at_.sched with odo := s.sched.odo.set d (s.sched.odo.get d + c) }
              engines := s.engines.set d rest
              calls := s.calls + 1
              engResps := []
              resp := .none }) ∧
          (T - s.sched.odo.get d < c → t.fault = some (.engineOverrun d (T - s.sched.odo.get d) c)))

/-- SLICES (R274, R282, R286): the h-blank sub-slice, with its bit set, runs MAIN and then AUX to the line's start
and `HBL` cycles; the display sub-slice, with the bit clear, runs MAIN and then AUX to the line's end; a fault ends
it. Both devices end with the line's end as their target, the slice and the bit are cleared, the line stays, the
odometers stay below the targets, in at most four calls; idle engines complete it. R286 is marked [derived] in the
spec. -/
def Obligations.SlicesReachTheLineEnd : Prop :=
  ∀ (s : State), s.ready →
    let cpl := fun d : Device => (s.cfg.cpl.get d).get s.sched.std
    let hblank := fun d : Device => s.sched.line * cpl d + (s.cfg.hbl.get d).get s.sched.std
    let enter := fun (k : Slice) (hb : Bool) (t : State) =>
      { t with sched := { t.sched with slice := k }, vdp := { t.vdp with stHblank := hb } }
    ∃ t u, exec .slices s = .next t ∧
      runChain [(enter .hblank true, .runto .main (hblank .main)), (id, .runto .aux (hblank .aux)),
        (enter .display false, .runto .main ((s.sched.line + 1) * cpl .main)),
        (id, .runto .aux ((s.sched.line + 1) * cpl .aux))] s = some u ∧
      (u.fault ≠ none → t = u) ∧ (u.fault = none → t = { u with sched := { u.sched with slice := .none } }) ∧
      (s.idle 2 → t.fault = none) ∧ t.calls ≤ s.calls + 4 ∧
      (t.fault = none → t.sched.line = s.sched.line ∧ t.sched.slice = .none ∧ t.vdp.stHblank = false ∧
        ∀ d, t.sched.tgt.get d = (s.sched.line + 1) * cpl d ∧
          s.sched.odo.get d ≤ t.sched.odo.get d ∧
          (s.sched.odo.get d ≤ s.sched.line * cpl d → t.sched.odo.get d ≤ t.sched.tgt.get d))

/-- LINESTEP (R288, R286): the pad timeout, the pad sample, the timers' tick, the horizontal step (which acts on
Active lines, log 15), the two sub-slices, then the v-blank boundary after the last Active line and the snapshot at
its line, in this order; then the line count rises by one; a fault ends it. The pad word is sampled, the targets are
the line's end, the odometers stay below them, the frame is complete after the last Active line; idle engines
complete it. With no line left the model does nothing (log 15, its own choice). -/
def Obligations.LineStepAdvances : Prop :=
  ∀ (s : State), s.ready →
    let boundary := s.sched.line + 1 = s.cfg.vblankStart.get s.sched.std
    (s.cfg.linesTotal.get s.sched.std ≤ s.sched.line → exec .linestep s = .next { s with resp := .none }) ∧
    (s.sched.line < s.cfg.linesTotal.get s.sched.std →
      ∃ t u, exec .linestep s = .next t ∧
        runChain ([(id, .padtimeout), (id, .padsample), (id, .timerstep), (id, .hstep), (id, .slices)] ++
          (if boundary then [(id, .vblankboundary)] else []) ++
          (if s.sched.line = s.cfg.snapshotLine then [(id, .snapshot)] else [])) s = some u ∧
        (u.fault ≠ none → t = u) ∧
        (u.fault = none → t = { u with sched := { u.sched with line := u.sched.line + 1 } }) ∧
        (s.idle 2 → t.fault = none) ∧
        (t.fault = none → t.sched.line = s.sched.line + 1 ∧ t.sched.std = s.sched.std ∧
          t.sched.padLatch = (sampleCell Config.padDraw s.host.pad).1 ∧
          t.sched.frameComplete = (s.sched.frameComplete || decide boundary) ∧
          (boundary → t.sched.irqV = true ∧ t.vdp.stF = true ∧ t.vdp.stVblank = true) ∧
          ∀ d, t.sched.tgt.get d = (s.sched.line + 1) * (s.cfg.cpl.get d).get s.sched.std ∧
            (s.sched.odo.get d ≤ s.sched.line * (s.cfg.cpl.get d).get s.sched.std →
              t.sched.odo.get d ≤ t.sched.tgt.get d)))

/-- RUNFRAME (R260, R264, R294, R286): whatever the engines do, an uncancelled frame that records no fault is
FRAMESTART, one LINESTEP for every line of the standard the host's flag gave, and FRAMEEND; it ends outside the
frame with the frame complete and the odometers within the frame, after at most four calls a line, with the log
handed over and one block asked for. Idle engines complete it. A frame cancelled by the host's flag is not run and
changes nothing (R264) but the record of samples (log 7, the model's), and not that where the host leaves its flag
standing. R286 and R294 are marked [derived] in the spec. -/
def Obligations.FrameRunsEveryLine : Prop :=
  ∀ (s : State), s.ready →
    let cancel := sampleCell (Config.flagDraw .cancel) s.host.cancel
    let s1 := { s with host := { s.host with cancel := cancel.2 } }
    let std := if (sampleCell (Config.flagDraw .pal) s.host.pal).1 = true then Std.pal else Std.ntsc
    let N := s.cfg.linesTotal.get std
    (cancel.1 = false →
      ∃ t, exec .runframe s = .next t ∧ (s.idle (2 * N) → t.fault = none) ∧
        (t.fault = none →
          runChain ((id, .framestart) :: List.replicate N (id, .linestep) ++ [(id, .frameend)]) s1 = some t ∧
          t.sched.std = std ∧ t.sched.line = N ∧ t.sched.inFrame = false ∧ t.sched.slice = .none ∧
          t.sched.frameComplete = true ∧ t.vdp.stVblank = true ∧ t.vdp.stHblank = false ∧
          t.calls ≤ s.calls + 4 * N ∧ t.synths = s.synths + 1 ∧ t.snd.synthLog = [] ∧
          ∀ d, t.sched.odo.get d ≤ N * (s.cfg.cpl.get d).get std)) ∧
    (cancel.1 = true → exec .runframe s = .next { s1 with resp := .cancelled }) ∧
    (s.host.cancel.value = true → s.host.cancel.coming = [] → s.host.cancel.held = true →
      exec .runframe s = .next { s with resp := .cancelled })

/-- FRAMESTART (R266): the standard is sampled, the position, the odometers, the targets, the status bits and the
frame-complete flag are cleared, the counter is loaded from VR[10], the capture index is reset; the latches, the
picture and the snapshot stay (the picture whole, log 35). The sample of the host's flag, and what it leaves of the
mailbox cell, are log 7 (the model's choice). -/
def Obligations.FrameStart : Prop :=
  ∀ (s : State), s.ready →
    let pal := sampleCell (Config.flagDraw .pal) s.host.pal
    exec .framestart s = .next
      { s with
        sched := { s.sched with
          std := if pal.1 = true then .pal else .ntsc
          inFrame := true
          line := 0
          slice := .none
          odo := ⟨0, 0⟩
          tgt := ⟨0, 0⟩
          frameComplete := false
          hcnt := (vreg s.vdp 10).toNat }
        vdp := { s.vdp with stVblank := false, stHblank := false, stF := false }
        snd := { s.snd with dacIdx := -1 }
        host := { s.host with pal := pal.2 }
        resp := .none }

/-- The pad steps of a line (R267, R268): a pad in phase 0 is not counted, another is, and one that reaches the
limit reverts; the latch takes the sample of the host's word, a free input whose form in the mailbox cell is log 7
(the model's choice). -/
def Obligations.PadStepsOfALine : Prop :=
  (∀ (s : State), s.ready → Memory.wf 0 s.bus.padPhase → Memory.wf 0 s.bus.padTimeout →
    ∃ ph tm, exec .padtimeout s = .next
        { s with bus := { s.bus with padPhase := ph, padTimeout := tm }, resp := .none } ∧
      ∀ p, let k := Memory.get 0 s.bus.padPhase p
        let n := Memory.get 0 s.bus.padTimeout p
        (s.cfg.nPads ≤ p ∨ k = 0 → Memory.get 0 ph p = k ∧ Memory.get 0 tm p = n) ∧
        (p < s.cfg.nPads → k ≠ 0 → n + 1 < s.cfg.padTimeoutLines →
          Memory.get 0 ph p = k ∧ Memory.get 0 tm p = n + 1) ∧
        (p < s.cfg.nPads → k ≠ 0 → s.cfg.padTimeoutLines ≤ n + 1 →
          Memory.get 0 ph p = 0 ∧ Memory.get 0 tm p = 0)) ∧
  (∀ (s : State), s.ready →
    exec .padsample s = .next
      { s with
        sched := { s.sched with padLatch := (sampleCell Config.padDraw s.host.pad).1 }
        host := { s.host with pad := (sampleCell Config.padDraw s.host.pad).2 }
        resp := .none })

/-- TIMERTICK (R438, R270): with the time of MAIN's odometer, a running timer at or past its deadline sets its flag
and moves its deadline by its period, or past the time; nothing else changes. TIMERREBASE moves both deadlines back
by the frame, to 0 if they are not beyond it (R456); SOUNDFRAMESTART resets the capture index and nothing else
(R450). -/
def Obligations.SoundGlueTime : Prop :=
  (∀ (s : State) (i : Instr), s.ready → (i = .timertick ∨ i = .timerstep) →
     let now := s.sched.odo.main * 1000000 / s.cfg.clockHz.main.get s.sched.std
     let due := fun m : Timer => m.run = true ∧ m.deadlineUs ≤ now
     ∃ A B o, exec i s = .next { s with snd := { s.snd with tmA := A, tmB := B, tover := o }, resp := .none } ∧
       (∀ m y : Timer, (m = s.snd.tmA ∧ y = A ∨ m = s.snd.tmB ∧ y = B) →
         (¬ due m → y = m) ∧
         (due m → now < m.deadlineUs + m.reloadUs → y = { m with deadlineUs := m.deadlineUs + m.reloadUs }) ∧
         (due m → m.deadlineUs + m.reloadUs ≤ now → y = { m with deadlineUs := now + m.reloadUs })) ∧
       (o.getLsbD 0 = true ↔ s.snd.tover.getLsbD 0 = true ∨ due s.snd.tmA) ∧
       (o.getLsbD 1 = true ↔ s.snd.tover.getLsbD 1 = true ∨ due s.snd.tmB) ∧
       ∀ k, 2 ≤ k → o.getLsbD k = s.snd.tover.getLsbD k) ∧
  (∀ (s : State) (us : Nat), s.ready →
     (∃ A B, exec (.timerrebase us) s = .next { s with snd := { s.snd with tmA := A, tmB := B }, resp := .none } ∧
       ∀ m y : Timer, (m = s.snd.tmA ∧ y = A ∨ m = s.snd.tmB ∧ y = B) →
         y.run = m.run ∧ y.reloadUs = m.reloadUs ∧ y.deadlineUs = m.deadlineUs - us) ∧
     exec .soundframestart s = .next { s with snd := { s.snd with dacIdx := -1 }, resp := .none })

/-- HSTEP (R272): on an Active line the counter falls, or is reloaded from VR[10] with the horizontal interrupt
raised, and the picture line is drawn in both cases; on another line nothing happens (log 15). -/
def Obligations.HorizontalStep : Prop :=
  ∀ (s : State), s.ready →
    let active := s.cfg.activeStart.get s.sched.std ≤ s.sched.line ∧
      s.sched.line < s.cfg.vblankStart.get s.sched.std
    (¬ active → exec .hstep s = .next { s with resp := .none }) ∧
    (active → ∃ t, exec .hstep s = .next t ∧
      (∀ n : Int, n = s.sched.line - s.cfg.activeStart.get s.sched.std →
        (0 ≤ s.sched.hcnt - 1 → exec (.drawline n)
          { s with sched := { s.sched with hcnt := s.sched.hcnt - 1 } } = .next t) ∧
        (s.sched.hcnt - 1 < 0 → exec (.drawline n)
          { s with sched := { s.sched with hcnt := (vreg s.vdp 10).toNat, irqH := true } } = .next t)))

/-- The two parts of step (5): the v-blank boundary raises the vertical interrupt and sets its three bits (R278);
the snapshot takes the 64 colours of CRAM as four bytes each, red, green, blue and 0 (R276), each colour of three
bits widened to eight (R383). R383 marks the colours' places [from general knowledge]. -/
def Obligations.VblankBoundaryAndSnapshot : Prop :=
  ∀ (s : State), s.ready →
    exec .vblankboundary s = .next
      { s with
        sched := { s.sched with irqV := true, frameComplete := true }
        vdp := { s.vdp with stF := true, stVblank := true }
        resp := .none } ∧
    let widen := fun c : BitVec 3 => (c ++ c ++ field c 1 2 : Byte)
    ∃ m, exec .snapshot s = .next { s with sched := { s.sched with palsnap := m }, resp := .none } ∧
      ∀ i, i < 64 → ∀ k, k < 4 → Memory.get 0 m (4 * i + k) =
        if s.cfg.cramN ≤ i ∨ k = 3 then 0
        else widen (field (Memory.get 0 s.vdp.cram i) (4 * k + 1) 3)

/-- FINALIZE (R452, R454, R456) and FRAMEEND (R290): the buffer is held to its end, the log is emptied, both
deadlines are moved back by the frame, or to 0 if they are not beyond it, the mute flag is sampled, and the block is
`N_OUT` samples of `PCM_CH` channels: the synthesizer's sample plus the captured sample at its stretched place,
centred and shifted, saturated to 16 bits, or 0 while muted. Nothing else changes. FRAMEEND also leaves the frame
and answers the picture and the snapshot. The synthesizer is a free value (log 8), the mute sample log 7, the whole
picture log 35; R454 is marked [from general knowledge]. -/
def Obligations.FrameEndHandsOver : Prop :=
  ∀ (s : State), s.ready → Snd.inv s.cfg s.snd →
    let us := s.sched.odo.main * 1000000 / s.cfg.clockHz.main.get s.sched.std
    let U := min s.cfg.dacBufLen (max 1 us)
    let N := s.cfg.nOut.get s.sched.std
    let mute := sampleCell (Config.flagDraw .mute) s.host.mute
    let held := fun j : Nat => if s.snd.dacIdx < j then s.snd.dacLast else Memory.get 0x80 s.snd.dacBuf j
    let pcm := (List.range N).map fun k => (List.range s.cfg.pcmCh).map fun ch =>
      if mute.1 = true then 0
      else max (-32768) (min 32767
        ((Config.synth s.synths s.snd.synthLog N k ch).toInt + ((held (k * U / N)).toNat - 0x80) * 2 ^ s.cfg.dacShift))
    let later := fun m : Timer => { m with deadlineUs := m.deadlineUs - us }
    ∃ buf t, exec .finalize s = .next t ∧
      t = { s with
            snd := { s.snd with dacBuf := buf, synthLog := [], tmA := later s.snd.tmA, tmB := later s.snd.tmB }
            host := { s.host with mute := mute.2 }
            synths := s.synths + 1
            resp := .pcm pcm } ∧
      (∀ j, j < s.cfg.dacBufLen → Memory.get 0x80 buf j = held j) ∧
      exec .frameend s = .next
        { t with
          sched := { s.sched with inFrame := false }
          resp := .done s.sched.fb s.sched.palsnap pcm }

/-- DRAWLINE (R400): outside the picture nothing at all; with the display disabled the line's pixels are zero bytes
and the caches and dirty bits stay. The width is the reference one (R512) or the configuration's (R14, log 26), up
to the buffer's own (log 34). -/
def Obligations.BlankLine : Prop :=
  ∀ (s : State) (n : Int), s.ready → Memory.wf 0 s.sched.fb →
    let lines : Int := s.cfg.vblankStart.get s.sched.std - s.cfg.activeStart.get s.sched.std
    let W := match s.cfg.lineW with
      | none => if (vreg s.vdp 12).getLsbD 0 then 320 else 256
      | some w => min (w.getD (vreg s.vdp 12).toNat 0) 320
    (n < 0 ∨ lines ≤ n → exec (.drawline n) s = .next { s with resp := .none }) ∧
    (0 ≤ n → n < lines → (vreg s.vdp 1).getLsbD 6 = false →
      ∃ fb, exec (.drawline n) s = .next { s with sched := { s.sched with fb := fb }, resp := .none } ∧
        ∀ j, Memory.get 0 fb j =
          if n.toNat * 320 * s.cfg.bpp ≤ j ∧ j < (n.toNat * 320 + W) * s.cfg.bpp then 0
          else Memory.get 0 s.sched.fb j)

/-- DRAWLINE with the display enabled (R400, R406): both global dirty bits clear and both caches valid; every pixel
of the line is the output pixel of its composite colour, a function of the VDP's memories alone: the colour's index,
or its three widened parts (R383) as 5-6-5, three or four bytes (R384); the rest of the frame buffer stays, and
nothing outside the caches, the dirty bits and the frame buffer changes. The composite colour is what the six passes
of R402 leave: of the layers that show a colour there, a high-priority one before a low-priority one, in each the
front-most sprite before the foreground before the background, else the background colour. The sprites are in the
order of R390: from entry 0 along the links, until a link of 0, a link outside the table, or 256 entries. R406 is
marked [derived], the colours' places (R383) [from general knowledge]; the width and the layer functions are the
reference ones or the configuration's (log 26), what a memory of size 0 shows is log 30. -/
def Obligations.DrawnLine : Prop :=
  ∀ (s : State) (n : Int), s.ready → Vdp.cacheInv s.cfg s.vdp → Memory.wf 0 s.sched.fb → 0 ≤ n →
    n < (s.cfg.vblankStart.get s.sched.std : Int) - s.cfg.activeStart.get s.sched.std →
    (vreg s.vdp 1).getLsbD 6 = true →
    let W := match s.cfg.lineW with
      | none => if (vreg s.vdp 12).getLsbD 0 then 320 else 256
      | some w => min (w.getD (vreg s.vdp 12).toNat 0) 320
    let size := s.cfg.vramSize
    let link := fun i : Nat => (Memory.get 0 s.vdp.vram
      (((vreg s.vdp 5).toNat % 128 * 512 % size + 8 * i + 3) % size)).toNat % 128
    let solid := fun q : BitVec 6 × Bool => field q.1 0 4 ≠ 0
    ∃ t order, exec (.drawline n) s = .next t ∧
      t = { s with
            sched := { s.sched with fb := t.sched.fb }
            vdp := { s.vdp with
              dirtyPalette := false, dirtySprite := false, dirtyCram := t.vdp.dirtyCram, dirtyVram := t.vdp.dirtyVram,
              palCache := t.vdp.palCache, sprOrder := order }
            resp := .none } ∧
      Vdp.cacheInv t.cfg t.vdp ∧
      (order.head? = some 0 ∧ order.length ≤ 256 ∧ (0 < size → ∀ j i, order[j]? = some i →
        (∀ i', order[j + 1]? = some i' → i' = link i ∧ link i ≠ 0 ∧ link i < s.cfg.satMax) ∧
        (order[j + 1]? = none → order.length = 256 ∨ link i = 0 ∨ s.cfg.satMax ≤ link i))) ∧
      (∀ x, x < W →
        let b := bgPixel s.cfg s.vdp x n.toNat
        let f := fgPixel s.cfg s.vdp x n.toNat
        let sprite := fun high : Bool =>
          (order.filterMap fun i => sprPixel s.cfg s.vdp i x n.toNat).find? fun q => decide (q.2 = high ∧ solid q)
        let low := match sprite false with
          | some q => q.1
          | none => if f.2 = false ∧ solid f then f.1 else if b.2 = false ∧ solid b then b.1 else bgColour s.vdp
        let top := match sprite true with
          | some q => q.1
          | none => if f.2 = true ∧ solid f then f.1 else if b.2 = true ∧ solid b then b.1 else low
        let i := top.toNat % s.cfg.cramN
        let part := fun lo : Nat =>
          let c : BitVec 3 := field (Memory.get 0 s.vdp.cram i) lo 3
          (c ++ c ++ field c 1 2 : Byte)
        let high : Half := field (part 1) 3 5 ++ field (part 5) 2 6 ++ field (part 9) 3 5
        let pixel : List Byte := match s.cfg.bpp with
          | 1 => [BitVec.ofNat 8 i]
          | 2 => [field high 0 8, field high 8 8]
          | 3 => [part 1, part 5, part 9]
          | _ => [part 1, part 5, part 9, 0]
        0 < s.cfg.cramN → ∀ k, k < s.cfg.bpp →
          Memory.get 0 t.sched.fb ((n.toNat * 320 + x) * s.cfg.bpp + k) = pixel.getD k 0) ∧
      (∀ j, ¬ (n.toNat * 320 * s.cfg.bpp ≤ j ∧ j < (n.toNat * 320 + W) * s.cfg.bpp) →
        Memory.get 0 t.sched.fb j = Memory.get 0 s.sched.fb j)

/-- LOAD (R472, R474, R475, R476) and UNPLUG (R480): an image of the wrong size fails and changes nothing; another
replaces the image, the save RAM and the patches and then resets the system. Save RAM is present exactly when the
header has the two magic bytes, its start lies below its end, and the end, made odd, lies in the cartridge window;
it then runs from the start, made even, to that end, empty and writable, and is active exactly when it lies above
the image. The header offsets (R473) are marked [from general knowledge]; an empty image and header bytes beyond a
short image are log 32, the values of an absent save RAM log 18 (the model's choices); that the reset takes the
host's flag as it stands and does not sample it is log 28. -/
def Obligations.LoadAndUnplug : Prop :=
  ∀ (s : State) (g : Image), s.ready → s.sched.inFrame = false →
    let reset := fun (b : Bus) (r : Resp) =>
      { s with
        sched := { (State.powerOn s.cfg).sched with std := if s.host.pal.value = true then .pal else .ntsc }
        bus := b
        vdp := (State.powerOn s.cfg).vdp
        snd := { (State.powerOn s.cfg).snd with synthLog := [.resetMark] }
        resp := r }
    let be := fun o : Nat =>
      ((imageByte g o ++ imageByte g (o + 1) ++ imageByte g (o + 2) ++ imageByte g (o + 3) : BitVec 32)).toNat
    let from_ := be 0x1B4
    let to_ := be 0x1B8
    let ram := imageByte g 0x1B0 = 0x52 ∧ imageByte g 0x1B1 = 0x41 ∧ from_ < to_ ∧ to_ - to_ % 2 + 1 ≤ s.cfg.cartEnd
    (∀ o, o < g.len → imageByte g o = Memory.get 0 g.bytes o) ∧
    (g.len = 0 ∨ g.len < s.cfg.minImageSize ∨ s.cfg.cartEnd + 1 < g.len →
      exec (.hostLoad g) s = .next { s with resp := .loadFail }) ∧
    (1 ≤ g.len → s.cfg.minImageSize ≤ g.len → g.len ≤ s.cfg.cartEnd + 1 →
      ∃ d : SaveRam, exec (.hostLoad g) s = .next (reset
          { (State.powerOn s.cfg).bus with rom := g.bytes, romLen := g.len, cartPresent := true, sram := d } .loadOk) ∧
        (d.present = true ↔ ram) ∧ (¬ ram → d = .absent) ∧
        (ram → d.start.toNat = from_ - from_ % 2 ∧ d.stop.toNat = to_ - to_ % 2 + 1 ∧ d.bytes = [] ∧ d.wp = false ∧
          (d.active = true ↔ g.len ≤ d.start.toNat))) ∧
    exec .hostUnplug s = .next (reset (State.powerOn s.cfg).bus .none)

/-- PATCH (R482): a code on a word without a patch inside the image writes it and keeps the original; the same word
again, whatever the value, restores the machine exactly; a code on a word that has a patch, whatever the value, puts
the kept bytes back and takes that patch away; in both the other patches and bytes stay; a code outside the image is
skipped; a list is its codes in order, the skips added. -/
def Obligations.PatchToggles : Prop :=
  ∀ (s : State) (a b : Addr) (v w : Half) (l : List (Addr × Half)), s.ready → s.sched.inFrame = false →
    Memory.wf 0 s.bus.rom → s.bus.patches.Pairwise (fun x y => x.1 < y.1) →
    let k := a.toNat - a.toNat % 2
    let one := fun q : Half => Instr.hostPatch [(a, q)]
    ((∀ q, (k, q) ∉ s.bus.patches) → k + 1 < s.bus.romLen →
      ∃ m t, exec (one v) s = .next t ∧
        t = { s with bus := { s.bus with rom := m, patches := t.bus.patches }, resp := .skipped 0 } ∧
        (k, Memory.get 0 s.bus.rom k ++ Memory.get 0 s.bus.rom (k + 1)) ∈ t.bus.patches ∧
        (∀ n q, n ≠ k → ((n, q) ∈ t.bus.patches ↔ (n, q) ∈ s.bus.patches)) ∧
        (∀ o, Memory.get 0 m o = if o = k then field v 8 8 else if o = k + 1 then field v 0 8
          else Memory.get 0 s.bus.rom o) ∧
        (b.toNat - b.toNat % 2 = k → exec (.hostPatch [(b, w)]) t = .next { s with resp := .skipped 0 })) ∧
    (∀ q, (k, q) ∈ s.bus.patches →
      ∃ m, exec (one v) s = .next
          { s with
            bus := { s.bus with rom := m, patches := s.bus.patches.filter (fun p => p.1 ≠ k) }, resp := .skipped 0 } ∧
        ∀ o, Memory.get 0 m o = if o = k then field q 8 8 else if o = k + 1 then field q 0 8
          else Memory.get 0 s.bus.rom o) ∧
    ((∀ q, (k, q) ∉ s.bus.patches) → s.bus.romLen ≤ k + 1 → exec (one v) s = .next { s with resp := .skipped 1 }) ∧
    (∃ t u n1 n2, exec (one v) s = .next t ∧ t.resp = .skipped n1 ∧ exec (.hostPatch l) t = .next u ∧
      u.resp = .skipped n2 ∧ exec (.hostPatch ((a, v) :: l)) s = .next { u with resp := .skipped (n1 + n2) })

/-- The four mailbox writes (R486): each sets its location and nothing else, inside a frame or outside; until the
first SETPAD the pad word is `PAD_UNTOUCHED`, shown of power-on. That a SET leaves the samples that wait is log 7
(the model's choice). -/
def Obligations.MailboxWrites : Prop :=
  (∀ c, (State.powerOn c).host.pad.value = c.padUntouched) ∧
  ∀ (s : State) (w : BitVec 32) (b : Bool), s.ready →
    exec (.hostSetpad w) s = .next
      { s with host := { s.host with pad := { s.host.pad with value := w } }, resp := .none } ∧
    exec (.hostSetmute b) s = .next
      { s with host := { s.host with mute := { s.host.mute with value := b } }, resp := .none } ∧
    exec (.hostSetcancel b) s = .next
      { s with host := { s.host with cancel := { s.host.cancel with value := b } }, resp := .none } ∧
    exec (.hostSetpal b) s = .next
      { s with host := { s.host with pal := { s.host.pal with value := b } }, resp := .none }
end

