-- ==== Sys2Proof/Laws/Codec.lean ====
section
/-! SUPPORT. The codecs read back what they write. -/

namespace Sys2Proof

open Machine

/-- The bytes of a word, read after `acc`, give `acc` moved up and the word's low bytes. -/
theorem takeWord_putWord (n : Nat) : ∀ (acc w : BitVec 32) (r : List Byte),
    takeWord n acc (putWord n w ++ r) = some (acc <<< (8 * n) ||| (w.setWidth (8 * n)).setWidth 32, r) := by
  induction n with
  | zero =>
    intro acc w r
    simp only [takeWord, putWord, List.nil_append, Option.some.injEq, Prod.mk.injEq, and_true]
    apply BitVec.eq_of_getLsbD_eq
    intro i hi
    simp
  | succ n ih =>
    intro acc w r
    simp only [takeWord, putWord, List.cons_append]
    rw [ih]
    simp only [Option.some.injEq, Prod.mk.injEq, and_true, field]
    apply BitVec.eq_of_getLsbD_eq
    intro i hi
    simp only [BitVec.getLsbD_or, BitVec.getLsbD_shiftLeft, BitVec.getLsbD_setWidth, BitVec.getLsbD_extractLsb', hi,
      decide_true, Bool.true_and]
    by_cases h1 : i < 8 * n
    · simp [h1, show i < 8 * (n + 1) by omega]
    · by_cases h2 : i < 8 * (n + 1)
      · have h3 : i - 8 * n < 8 := by omega
        have h4 : 8 * n + (i - 8 * n) = i := by omega
        simp [h1, h2, h3, h4, show i - 8 * n < 32 by omega]
      · have h3 : ¬ i - 8 * n < 8 := by omega
        simp [h1, h2, h3, show i - 8 * n < 32 by omega, show i - 8 * n - 8 = i - 8 * (n + 1) by omega]

/-- A codec reads back every value that satisfies `P`. -/
def Codec.Exact {α : Type} (k : Codec α) (P : α → Prop) : Prop :=
  ∀ a, P a → ∀ r, k.get (k.put a ++ r) = some (a, r)

theorem Codec.word_exact : (Codec.word 4).Exact fun _ => True := by
  intro w _ r
  show takeWord 4 0 (putWord 4 w ++ r) = _
  rw [takeWord_putWord]
  simp

/-- A word of `n` bytes reads back when it has no bit above them. -/
theorem Codec.word_exact_lt (n : Nat) : (Codec.word n).Exact fun w => w.toNat < 2 ^ (8 * n) := by
  intro w h r
  show takeWord n 0 (putWord n w ++ r) = _
  rw [takeWord_putWord]
  simp only [Option.some.injEq, Prod.mk.injEq, and_true]
  apply BitVec.eq_of_toNat_eq
  have hw := w.isLt
  simp only [BitVec.toNat_or, BitVec.toNat_shiftLeft, BitVec.toNat_setWidth]
  rw [Nat.mod_eq_of_lt h, Nat.mod_eq_of_lt hw]
  simp

theorem Codec.map_exact {α β : Type} {k : Codec α} {P : α → Prop} (hk : k.Exact P) (f : α → β) (g : β → α)
    {Q : β → Prop} (hP : ∀ b, Q b → P (g b)) (hg : ∀ b, Q b → f (g b) = b) : (k.map f g).Exact Q := by
  intro b hb r
  simp [Codec.map, hk _ (hP b hb), hg b hb]

theorem Codec.filterMap_exact {α β : Type} {k : Codec α} {P : α → Prop} (hk : k.Exact P) (f : α → Option β)
    (g : β → α) {Q : β → Prop} (hP : ∀ b, Q b → P (g b)) (hg : ∀ b, Q b → f (g b) = some b) :
    (k.filterMap f g).Exact Q := by
  intro b hb r
  simp [Codec.filterMap, hk _ (hP b hb), hg b hb]

theorem Codec.pair_exact {α β : Type} {k : Codec α} {l : Codec β} {P : α → Prop} {Q : β → Prop} (hk : k.Exact P)
    (hl : l.Exact Q) : (k.pair l).Exact fun p => P p.1 ∧ Q p.2 := by
  intro p hp r
  simp [Codec.pair, hk _ hp.1, hl _ hp.2]

theorem Codec.unit_exact : Codec.unit.Exact fun _ => True := fun _ _ _ => rfl

/-- A bit vector reads back when its width fits in the bytes. -/
theorem Codec.bits_exact (n w : Nat) (hw : w ≤ 8 * n) (hn : w ≤ 32) : (Codec.bits n w).Exact fun _ => True := by
  refine Codec.map_exact (Codec.word_exact_lt n) _ _ (fun b _ => ?_) (fun b _ => ?_)
  · have hb : b.toNat < 2 ^ w := b.isLt
    have h1 : 2 ^ w ≤ 2 ^ (8 * n) := Nat.pow_le_pow_right (by decide) hw
    have h2 : 2 ^ w ≤ 2 ^ 32 := Nat.pow_le_pow_right (by decide) hn
    show (b.setWidth 32).toNat < _
    rw [BitVec.toNat_setWidth, Nat.mod_eq_of_lt (by omega)]
    omega
  · exact (BitVec.setWidth_setWidth_of_le b hn).trans (BitVec.setWidth_eq b)

theorem Codec.byte_exact : Codec.byte.Exact fun _ => True := Codec.bits_exact 1 8 (by decide) (by decide)

theorem Codec.half_exact : Codec.half.Exact fun _ => True := Codec.bits_exact 2 16 (by decide) (by decide)

theorem Codec.nat_exact : Codec.nat.Exact fun n => nat32 n = true := by
  refine Codec.map_exact Codec.word_exact _ _ (fun _ _ => trivial) (fun n h => ?_)
  have h : n < 0x100000000 := by simpa [nat32] using h
  rw [BitVec.toNat_ofNat]
  omega

theorem Codec.int_exact : Codec.int.Exact fun n => -0x80000000 ≤ n ∧ n < 0x80000000 := by
  refine Codec.map_exact Codec.word_exact _ _ (fun _ _ => trivial) (fun n h => ?_)
  rw [BitVec.toInt_ofInt]
  simp only [Int.bmod]
  omega

theorem Codec.master_exact : Codec.master.Exact fun _ => True :=
  Codec.filterMap_exact Codec.byte_exact _ _ (fun _ _ => trivial) (fun m _ => by cases m <;> rfl)

theorem Codec.device_exact : Codec.device.Exact fun _ => True :=
  Codec.filterMap_exact Codec.byte_exact _ _ (fun _ _ => trivial) (fun m _ => by cases m <;> rfl)

theorem Codec.bit_exact : Codec.bit.Exact fun _ => True :=
  Codec.filterMap_exact Codec.byte_exact _ _ (fun _ _ => trivial) (fun m _ => by cases m <;> rfl)

theorem Codec.ctx_exact : Codec.ctx.Exact fun x => x.wf = true :=
  Codec.map_exact (Codec.pair_exact Codec.master_exact Codec.nat_exact) _ _ (fun _ h => ⟨trivial, h⟩)
    (fun _ _ => rfl)

theorem Codec.access_exact : Codec.access.Exact fun _ => True :=
  Codec.filterMap_exact (Codec.pair_exact Codec.bit_exact Codec.byte_exact) _ _ (fun _ _ => ⟨trivial, trivial⟩)
    (fun k _ => by cases k <;> rfl)

/-- A list's values read back one by one. -/
theorem takeMany_putMany {α : Type} {k : Codec α} {P : α → Prop} (hk : k.Exact P) (l : List α) :
    (∀ a ∈ l, P a) → ∀ r, takeMany k l.length (putMany k l ++ r) = some (l, r) := by
  induction l with
  | nil => exact fun _ _ => rfl
  | cons a l ih =>
    intro h r
    simp [takeMany, putMany, hk a (h a (by simp)), ih fun b hb => h b (by simp [hb])]

theorem Codec.list_exact {α : Type} {k : Codec α} {P : α → Prop} (hk : k.Exact P) :
    (Codec.list k).Exact fun l => l.length < 0x100000000 ∧ ∀ a ∈ l, P a := by
  intro l h r
  have hl : nat32 l.length = true := by simpa [nat32] using h.1
  simp [Codec.list, Codec.nat_exact l.length hl, takeMany_putMany hk l h.2]

/-- A row's operands read back through its reader. -/
theorem reads_exact {α : Type} {k : Codec α} {P : α → Prop} (hk : k.Exact P) (f : BitVec 32 → α → Instr)
    (w : BitVec 32) (a : α) (ha : P a) (r : List Byte) : reads k f w (k.put a ++ r) = some (f w a, r) := by
  simp [reads, hk a ha]

end Sys2Proof
end

