-- ==== Sys2Proof/Laws/Fields.lean ====
section
/-! SUPPORT. A field of a word put together from fields is the field it was made of. -/

namespace Sys2Proof.Machine

theorem field_self {n : Nat} (w : BitVec n) : field w 0 n = w := by
  apply BitVec.eq_of_getLsbD_eq
  intro i hi
  simp [field, hi]

theorem field_setWidth {n : Nat} (w : BitVec n) (m lo len : Nat) (h : lo + len ≤ m) :
    field (w.setWidth m) lo len = field w lo len := by
  apply BitVec.eq_of_getLsbD_eq
  intro i hi
  simp [field, hi, show lo + i < m by omega]

theorem field_append_lo {n m : Nat} (x : BitVec n) (y : BitVec m) (lo len : Nat) (h : lo + len ≤ m) :
    field (x ++ y) lo len = field y lo len := by
  apply BitVec.eq_of_getLsbD_eq
  intro i hi
  simp [field, hi, BitVec.getLsbD_append, show lo + i < m by omega]

theorem field_append_hi {n m : Nat} (x : BitVec n) (y : BitVec m) (lo len : Nat) (h : m ≤ lo) :
    field (x ++ y) lo len = field x (lo - m) len := by
  apply BitVec.eq_of_getLsbD_eq
  intro i hi
  simp [field, hi, BitVec.getLsbD_append, show ¬ lo + i < m by omega, show lo + i - m = lo - m + i by omega]

/-- A whole value carried in a wider word. -/
theorem field_of_setWidth {n : Nat} (w : BitVec n) (m : Nat) (h : n ≤ m) : field (w.setWidth m) 0 n = w := by
  rw [field_setWidth w m 0 n (by omega), field_self]

theorem regsetWord_z (z : BitVec 1) (r : BitVec 5) (d : Byte) : field (regsetWord z r d) 13 1 = z := by
  unfold regsetWord
  rw [field_append_hi _ _ _ _ (by decide), field_append_hi _ _ _ _ (by decide),
    field_append_lo _ _ _ _ (by decide), field_self]

theorem regsetWord_r (z : BitVec 1) (r : BitVec 5) (d : Byte) : field (regsetWord z r d) 8 5 = r := by
  unfold regsetWord
  rw [field_append_hi _ _ _ _ (by decide), field_append_lo _ _ _ _ (by decide), field_self]

theorem regsetWord_d (z : BitVec 1) (r : BitVec 5) (d : Byte) : field (regsetWord z r d) 0 8 = d := by
  unfold regsetWord
  rw [field_append_lo _ _ _ _ (by decide), field_self]

theorem regsetWord_top (z : BitVec 1) (r : BitVec 5) (d : Byte) : field (regsetWord z r d) 14 2 = 2#2 := by
  unfold regsetWord
  rw [field_append_hi _ _ _ _ (by decide), field_append_hi _ _ _ _ (by decide),
    field_append_hi _ _ _ _ (by decide), field_self]

theorem cmd1Word_c (c : BitVec 2) (a : BitVec 14) : field (cmd1Word c a) 14 2 = c := by
  unfold cmd1Word
  rw [field_append_hi _ _ _ _ (by decide), field_self]

theorem cmd1Word_a (c : BitVec 2) (a : BitVec 14) : field (cmd1Word c a) 0 14 = a := by
  unfold cmd1Word
  rw [field_append_lo _ _ _ _ (by decide), field_self]

theorem cmd2Word_x (x : BitVec 8) (cc : BitVec 4) (y aa : BitVec 2) : field (cmd2Word x cc y aa) 8 8 = x := by
  unfold cmd2Word
  rw [field_append_hi _ _ _ _ (by decide), field_append_hi _ _ _ _ (by decide),
    field_append_hi _ _ _ _ (by decide), field_self]

theorem cmd2Word_cc (x : BitVec 8) (cc : BitVec 4) (y aa : BitVec 2) : field (cmd2Word x cc y aa) 4 4 = cc := by
  unfold cmd2Word
  rw [field_append_hi _ _ _ _ (by decide), field_append_hi _ _ _ _ (by decide),
    field_append_lo _ _ _ _ (by decide), field_self]

theorem cmd2Word_y (x : BitVec 8) (cc : BitVec 4) (y aa : BitVec 2) : field (cmd2Word x cc y aa) 2 2 = y := by
  unfold cmd2Word
  rw [field_append_hi _ _ _ _ (by decide), field_append_lo _ _ _ _ (by decide), field_self]

theorem cmd2Word_aa (x : BitVec 8) (cc : BitVec 4) (y aa : BitVec 2) : field (cmd2Word x cc y aa) 0 2 = aa := by
  unfold cmd2Word
  rw [field_append_lo _ _ _ _ (by decide), field_self]

/-- The command word of two halves has the first half's fields from the first half (R157). -/
theorem cmdFields_halves (c : BitVec 2) (a : BitVec 14) (x : BitVec 8) (cc : BitVec 4) (y aa : BitVec 2) :
    cmdFields (cmd1Word c a ++ cmd2Word x cc y aa) = ⟨c, a, x, cc, y, aa⟩ := by
  unfold cmdFields
  rw [field_append_hi _ _ _ _ (by decide), field_append_hi _ _ _ _ (by decide),
    field_append_lo _ _ _ _ (by decide), field_append_lo _ _ _ _ (by decide),
    field_append_lo _ _ _ _ (by decide), field_append_lo _ _ _ _ (by decide)]
  simp only [Nat.reduceSub, cmd1Word_c, cmd1Word_a, cmd2Word_x, cmd2Word_cc, cmd2Word_y, cmd2Word_aa]

/-- The fields of a command word read back. -/
theorem cmdFields_cmdWord (w : CmdWord) : cmdFields (cmdWord w) = w := cmdFields_halves _ _ _ _ _ _

end Sys2Proof.Machine
end

