-- ==== Sys2Proof/Laws/Memory.lean ====
section
/-! SUPPORT. The laws of sparse tables: a read after a write, and that every operation keeps the canonical form. -/

namespace Sys2Proof.Machine.Memory

variable {α : Type}

@[simp] theorem get_nil (d : α) (a : Nat) : get d [] a = d := rfl

/-- An index below every listed one reads as the unlisted value. -/
theorem get_of_lt (d : α) (m : Sparse α) (a : Nat) (h : ∀ c ∈ m, a < c.1) : get d m a = d := by
  induction m with
  | nil => rfl
  | cons x r ih =>
    have hx : a < x.1 := h x (by simp)
    rw [show x = (x.1, x.2) from rfl, get, if_neg (by omega)]
    exact ih fun c hc => h c (by simp [hc])

/-- A read after a write: the written index gives the value, every other one what it gave. -/
theorem get_put [DecidableEq α] (d : α) (m : Sparse α) (hm : wf d m) (a b : Nat) (v : α) :
    get d (put d m a v) b = if b = a then v else get d m b := by
  induction m with
  | nil =>
    simp only [put]
    split <;> simp_all [get]
  | cons x r ih =>
    obtain ⟨hp, hv⟩ := hm
    have hr : wf d r := ⟨(List.pairwise_cons.mp hp).2, fun c hc => hv c (by simp [hc])⟩
    have hlt := (List.pairwise_cons.mp hp).1
    obtain ⟨k, w⟩ := x
    simp only [put]
    split
    · next hak =>
      have hnot : get d ((k, w) :: r) a = d := get_of_lt d _ a fun c hc => by
        rcases List.mem_cons.mp hc with rfl | hc
        · exact hak
        · exact Nat.lt_trans hak (hlt c hc)
      split
      · next hd =>
        split
        · next hb => rw [hb, hnot, hd]
        · rfl
      · rw [get]
    · next hak =>
      split
      · next hk =>
        subst hk
        have hnot : get d r a = d := get_of_lt d _ a hlt
        split
        · next hd =>
          split
          · next hb => rw [hb, hnot, hd]
          · next hb => rw [get, if_neg hb]
        · simp only [get]
          split <;> rfl
      · next hk =>
        simp only [get]
        rw [ih hr]
        by_cases hb : b = k
        · simp [hb, show ¬ k = a from fun h => hk h.symm]
        · simp [hb]

theorem get_put_self [DecidableEq α] (d : α) (m : Sparse α) (hm : wf d m) (a : Nat) (v : α) :
    get d (put d m a v) a = v := by simp [get_put d m hm]

/-- A write leaves what every other index reads as, whatever the list's form. -/
theorem get_put_ne [DecidableEq α] (d : α) (m : Sparse α) {a b : Nat} (v : α) (h : b ≠ a) :
    get d (put d m a v) b = get d m b := by
  induction m with
  | nil => simp only [put]; split <;> simp [get, h]
  | cons x r ih =>
    obtain ⟨k, w⟩ := x
    simp only [put]
    split
    · split <;> simp [get, h]
    · split
      · next hk => subst hk; split <;> simp [get, h]
      · simp only [get]; rw [ih]

/-- A write lists no index but its own and those already listed. -/
theorem mem_put [DecidableEq α] (d : α) (m : Sparse α) (a : Nat) (v : α) {c : Nat × α} (h : c ∈ put d m a v) :
    (c = (a, v) ∧ v ≠ d) ∨ c ∈ m := by
  induction m with
  | nil =>
    simp only [put] at h
    split at h
    · simp at h
    · next hd => exact Or.inl ⟨by simpa using h, hd⟩
  | cons x r ih =>
    obtain ⟨k, w⟩ := x
    simp only [put] at h
    split at h
    · split at h
      · exact Or.inr h
      · next hd =>
        rcases List.mem_cons.mp h with h | h
        · exact Or.inl ⟨h, hd⟩
        · exact Or.inr h
    · split at h
      · split at h
        · exact Or.inr (List.mem_cons_of_mem _ h)
        · next hd =>
          rcases List.mem_cons.mp h with h | h
          · exact Or.inl ⟨h, hd⟩
          · exact Or.inr (List.mem_cons_of_mem _ h)
      · rcases List.mem_cons.mp h with h | h
        · exact Or.inr (h ▸ List.mem_cons_self)
        · rcases ih h with h | h
          · exact Or.inl h
          · exact Or.inr (List.mem_cons_of_mem _ h)

/-- A write keeps the canonical form. -/
theorem wf_put [DecidableEq α] (d : α) (m : Sparse α) (hm : wf d m) (a : Nat) (v : α) : wf d (put d m a v) := by
  induction m with
  | nil =>
    simp only [put]
    split
    · exact hm
    · next hd => exact ⟨by simp, by simpa using hd⟩
  | cons x r ih =>
    obtain ⟨hp, hv⟩ := hm
    obtain ⟨hlt, hpr⟩ := List.pairwise_cons.mp hp
    have hr : wf d r := ⟨hpr, fun c hc => hv c (by simp [hc])⟩
    obtain ⟨k, w⟩ := x
    have hw : w ≠ d := hv (k, w) (by simp)
    simp only [put]
    split
    · next hak =>
      split
      · exact ⟨hp, hv⟩
      · next hd =>
        refine ⟨List.pairwise_cons.mpr ⟨fun c hc => ?_, hp⟩, fun c hc => ?_⟩
        · rcases List.mem_cons.mp hc with rfl | hc
          · exact hak
          · exact Nat.lt_trans hak (hlt c hc)
        · rcases List.mem_cons.mp hc with rfl | hc
          · exact hd
          · exact hv c hc
    · next hak =>
      split
      · next hk =>
        split
        · exact hr
        · next hd =>
          refine ⟨List.pairwise_cons.mpr ⟨fun c hc => ?_, hpr⟩, fun c hc => ?_⟩
          · rw [hk]
            exact hlt c hc
          · rcases List.mem_cons.mp hc with rfl | hc
            · exact hd
            · exact hr.2 c hc
      · next hk =>
        obtain ⟨ihp, ihv⟩ := ih hr
        refine ⟨List.pairwise_cons.mpr ⟨fun c hc => ?_, ihp⟩, fun c hc => ?_⟩
        · rcases mem_put d r a v hc with ⟨rfl, -⟩ | hc
          · show k < a
            omega
          · exact hlt c hc
        · rcases List.mem_cons.mp hc with rfl | hc
          · exact hw
          · exact ihv c hc

/-- A write below `n` keeps every index below `n`. -/
theorem below_put [DecidableEq α] (d : α) (n : Nat) (m : Sparse α) (hm : below n m) (a : Nat) (v : α) (ha : a < n) :
    below n (put d m a v) := fun c hc => by
  rcases mem_put d m a v hc with ⟨rfl, -⟩ | hc
  · exact ha
  · exact hm c hc

/-- A write inside a table leaves a table. -/
theorem table_put [DecidableEq α] (d : α) (n : Nat) (m : Sparse α) (hm : table d n m) (a : Nat) (v : α) (ha : a < n) :
    table d n (put d m a v) := ⟨wf_put d m hm.1 a v, below_put d n m hm.2 a v ha⟩

/-- Filling inside a table leaves a table. -/
theorem table_fill [DecidableEq α] (d : α) (n : Nat) (v : α) (k : Nat) :
    ∀ (m : Sparse α) (a : Nat), table d n m → a + k ≤ n → table d n (fill d m a v k) := by
  induction k with
  | zero => exact fun m a hm _ => hm
  | succ k ih => exact fun m a hm h => ih _ _ (table_put d n m hm a v (by omega)) (by omega)

/-- Filling keeps the canonical form. -/
theorem wf_fill [DecidableEq α] (d : α) (v : α) (k : Nat) :
    ∀ (m : Sparse α) (a : Nat), wf d m → wf d (fill d m a v k) := by
  induction k with
  | zero => exact fun m a hm => hm
  | succ k ih => exact fun m a hm => ih _ _ (wf_put d m hm a v)

/-- What a filled table reads as. -/
theorem get_fill [DecidableEq α] (d : α) (v : α) (k : Nat) :
    ∀ (m : Sparse α) (a b : Nat), wf d m →
      get d (fill d m a v k) b = if a ≤ b ∧ b < a + k then v else get d m b := by
  induction k with
  | zero =>
    intro m a b _
    rw [if_neg (by omega)]
    rfl
  | succ k ih =>
    intro m a b hm
    rw [fill, ih _ _ _ (wf_put d m hm a v), get_put d m hm]
    by_cases h1 : b = a
    · simp [h1]
    · by_cases h2 : a + 1 ≤ b ∧ b < a + 1 + k
      · rw [if_pos h2, if_pos (by omega)]
      · rw [if_neg h2, if_neg h1, if_neg (by omega)]

/-- Writing a list keeps the canonical form. -/
theorem wf_putList [DecidableEq α] (d : α) (vs : List α) :
    ∀ (m : Sparse α) (a : Nat), wf d m → wf d (putList d m a vs) := by
  induction vs with
  | nil => exact fun m a hm => hm
  | cons v vs ih => exact fun m a hm => ih _ _ (wf_put d m hm a v)

/-- What `ofList` lists: at or above the first index, below the end, never the unlisted value. -/
theorem mem_ofList [DecidableEq α] (d : α) (vs : List α) :
    ∀ (a : Nat) (c : Nat × α), c ∈ ofList d a vs → a ≤ c.1 ∧ c.1 < a + vs.length ∧ c.2 ≠ d := by
  induction vs with
  | nil => simp [ofList]
  | cons v vs ih =>
    intro a c hc
    simp only [ofList] at hc
    split at hc
    · have := ih _ _ hc
      simp only [List.length_cons]
      exact ⟨by omega, by omega, this.2.2⟩
    · next hd =>
      rcases List.mem_cons.mp hc with rfl | hc
      · exact ⟨Nat.le_refl _, by simp, hd⟩
      · have := ih _ _ hc
        simp only [List.length_cons]
        exact ⟨by omega, by omega, this.2.2⟩

/-- `ofList` is canonical. -/
theorem wf_ofList [DecidableEq α] (d : α) (vs : List α) (a : Nat) : wf d (ofList d a vs) := by
  refine ⟨?_, fun c hc => (mem_ofList d vs a c hc).2.2⟩
  induction vs generalizing a with
  | nil => simp [ofList]
  | cons v vs ih =>
    simp only [ofList]
    split
    · exact ih _
    · exact List.pairwise_cons.mpr ⟨fun c hc => by have := (mem_ofList d vs (a + 1) c hc).1; omega, ih _⟩

/-- `ofList` is a table of its length. -/
theorem table_ofList [DecidableEq α] (d : α) (vs : List α) (n : Nat) (h : vs.length ≤ n) :
    table d n (ofList d 0 vs) :=
  ⟨wf_ofList d vs 0, fun c hc => by have := (mem_ofList d vs 0 c hc).2.1; omega⟩

/-- The empty table is a table. -/
theorem table_nil (d : α) (n : Nat) : table d n ([] : Sparse α) :=
  ⟨⟨List.Pairwise.nil, by simp⟩, by intro c hc; simp at hc⟩

/-- Memory at reset is canonical. -/
theorem reset_ram_wf : wf 0 State.reset.bus.ram ∧ wf 0 State.reset.bus.zram ∧ wf 0 State.reset.vdp.vram := by decide

end Sys2Proof.Machine.Memory
end

