-- ==== Sys2Proof/Laws/State.lean ====
section
/-! SUPPORT. One lemma per field of State for each update of a group, and what the shared operations that touch one group
leave alone. -/

namespace Sys2Proof.Machine

@[simp] theorem setSched_cfg (s : State) (x : Sched) : (setSched s x).cfg = s.cfg := rfl
@[simp] theorem setSched_sched (s : State) (x : Sched) : (setSched s x).sched = x := rfl
@[simp] theorem setSched_bus (s : State) (x : Sched) : (setSched s x).bus = s.bus := rfl
@[simp] theorem setSched_vdp (s : State) (x : Sched) : (setSched s x).vdp = s.vdp := rfl
@[simp] theorem setSched_snd (s : State) (x : Sched) : (setSched s x).snd = s.snd := rfl
@[simp] theorem setSched_host (s : State) (x : Sched) : (setSched s x).host = s.host := rfl
@[simp] theorem setSched_fault (s : State) (x : Sched) : (setSched s x).fault = s.fault := rfl
@[simp] theorem setSched_inq (s : State) (x : Sched) : (setSched s x).inq = s.inq := rfl
@[simp] theorem setSched_engines (s : State) (x : Sched) : (setSched s x).engines = s.engines := rfl
@[simp] theorem setSched_calls (s : State) (x : Sched) : (setSched s x).calls = s.calls := rfl
@[simp] theorem setSched_synths (s : State) (x : Sched) : (setSched s x).synths = s.synths := rfl
@[simp] theorem setSched_resp (s : State) (x : Sched) : (setSched s x).resp = s.resp := rfl
@[simp] theorem setSched_engResps (s : State) (x : Sched) : (setSched s x).engResps = s.engResps := rfl

@[simp] theorem setBus_cfg (s : State) (x : Bus) : (setBus s x).cfg = s.cfg := rfl
@[simp] theorem setBus_sched (s : State) (x : Bus) : (setBus s x).sched = s.sched := rfl
@[simp] theorem setBus_bus (s : State) (x : Bus) : (setBus s x).bus = x := rfl
@[simp] theorem setBus_vdp (s : State) (x : Bus) : (setBus s x).vdp = s.vdp := rfl
@[simp] theorem setBus_snd (s : State) (x : Bus) : (setBus s x).snd = s.snd := rfl
@[simp] theorem setBus_host (s : State) (x : Bus) : (setBus s x).host = s.host := rfl
@[simp] theorem setBus_fault (s : State) (x : Bus) : (setBus s x).fault = s.fault := rfl
@[simp] theorem setBus_inq (s : State) (x : Bus) : (setBus s x).inq = s.inq := rfl
@[simp] theorem setBus_engines (s : State) (x : Bus) : (setBus s x).engines = s.engines := rfl
@[simp] theorem setBus_calls (s : State) (x : Bus) : (setBus s x).calls = s.calls := rfl
@[simp] theorem setBus_synths (s : State) (x : Bus) : (setBus s x).synths = s.synths := rfl
@[simp] theorem setBus_resp (s : State) (x : Bus) : (setBus s x).resp = s.resp := rfl
@[simp] theorem setBus_engResps (s : State) (x : Bus) : (setBus s x).engResps = s.engResps := rfl

@[simp] theorem setVdp_cfg (s : State) (x : Vdp) : (setVdp s x).cfg = s.cfg := rfl
@[simp] theorem setVdp_sched (s : State) (x : Vdp) : (setVdp s x).sched = s.sched := rfl
@[simp] theorem setVdp_bus (s : State) (x : Vdp) : (setVdp s x).bus = s.bus := rfl
@[simp] theorem setVdp_vdp (s : State) (x : Vdp) : (setVdp s x).vdp = x := rfl
@[simp] theorem setVdp_snd (s : State) (x : Vdp) : (setVdp s x).snd = s.snd := rfl
@[simp] theorem setVdp_host (s : State) (x : Vdp) : (setVdp s x).host = s.host := rfl
@[simp] theorem setVdp_fault (s : State) (x : Vdp) : (setVdp s x).fault = s.fault := rfl
@[simp] theorem setVdp_inq (s : State) (x : Vdp) : (setVdp s x).inq = s.inq := rfl
@[simp] theorem setVdp_engines (s : State) (x : Vdp) : (setVdp s x).engines = s.engines := rfl
@[simp] theorem setVdp_calls (s : State) (x : Vdp) : (setVdp s x).calls = s.calls := rfl
@[simp] theorem setVdp_synths (s : State) (x : Vdp) : (setVdp s x).synths = s.synths := rfl
@[simp] theorem setVdp_resp (s : State) (x : Vdp) : (setVdp s x).resp = s.resp := rfl
@[simp] theorem setVdp_engResps (s : State) (x : Vdp) : (setVdp s x).engResps = s.engResps := rfl

@[simp] theorem setSnd_cfg (s : State) (x : Snd) : (setSnd s x).cfg = s.cfg := rfl
@[simp] theorem setSnd_sched (s : State) (x : Snd) : (setSnd s x).sched = s.sched := rfl
@[simp] theorem setSnd_bus (s : State) (x : Snd) : (setSnd s x).bus = s.bus := rfl
@[simp] theorem setSnd_vdp (s : State) (x : Snd) : (setSnd s x).vdp = s.vdp := rfl
@[simp] theorem setSnd_snd (s : State) (x : Snd) : (setSnd s x).snd = x := rfl
@[simp] theorem setSnd_host (s : State) (x : Snd) : (setSnd s x).host = s.host := rfl
@[simp] theorem setSnd_fault (s : State) (x : Snd) : (setSnd s x).fault = s.fault := rfl
@[simp] theorem setSnd_inq (s : State) (x : Snd) : (setSnd s x).inq = s.inq := rfl
@[simp] theorem setSnd_engines (s : State) (x : Snd) : (setSnd s x).engines = s.engines := rfl
@[simp] theorem setSnd_calls (s : State) (x : Snd) : (setSnd s x).calls = s.calls := rfl
@[simp] theorem setSnd_synths (s : State) (x : Snd) : (setSnd s x).synths = s.synths := rfl
@[simp] theorem setSnd_resp (s : State) (x : Snd) : (setSnd s x).resp = s.resp := rfl
@[simp] theorem setSnd_engResps (s : State) (x : Snd) : (setSnd s x).engResps = s.engResps := rfl

@[simp] theorem setHost_cfg (s : State) (x : Mailbox) : (setHost s x).cfg = s.cfg := rfl
@[simp] theorem setHost_sched (s : State) (x : Mailbox) : (setHost s x).sched = s.sched := rfl
@[simp] theorem setHost_bus (s : State) (x : Mailbox) : (setHost s x).bus = s.bus := rfl
@[simp] theorem setHost_vdp (s : State) (x : Mailbox) : (setHost s x).vdp = s.vdp := rfl
@[simp] theorem setHost_snd (s : State) (x : Mailbox) : (setHost s x).snd = s.snd := rfl
@[simp] theorem setHost_host (s : State) (x : Mailbox) : (setHost s x).host = x := rfl
@[simp] theorem setHost_fault (s : State) (x : Mailbox) : (setHost s x).fault = s.fault := rfl
@[simp] theorem setHost_inq (s : State) (x : Mailbox) : (setHost s x).inq = s.inq := rfl
@[simp] theorem setHost_engines (s : State) (x : Mailbox) : (setHost s x).engines = s.engines := rfl
@[simp] theorem setHost_calls (s : State) (x : Mailbox) : (setHost s x).calls = s.calls := rfl
@[simp] theorem setHost_synths (s : State) (x : Mailbox) : (setHost s x).synths = s.synths := rfl
@[simp] theorem setHost_resp (s : State) (x : Mailbox) : (setHost s x).resp = s.resp := rfl
@[simp] theorem setHost_engResps (s : State) (x : Mailbox) : (setHost s x).engResps = s.engResps := rfl

@[simp] theorem reply_cfg (r : Resp) (s : State) : (reply r s).cfg = s.cfg := rfl
@[simp] theorem reply_sched (r : Resp) (s : State) : (reply r s).sched = s.sched := rfl
@[simp] theorem reply_bus (r : Resp) (s : State) : (reply r s).bus = s.bus := rfl
@[simp] theorem reply_vdp (r : Resp) (s : State) : (reply r s).vdp = s.vdp := rfl
@[simp] theorem reply_snd (r : Resp) (s : State) : (reply r s).snd = s.snd := rfl
@[simp] theorem reply_host (r : Resp) (s : State) : (reply r s).host = s.host := rfl
@[simp] theorem reply_fault (r : Resp) (s : State) : (reply r s).fault = s.fault := rfl
@[simp] theorem reply_inq (r : Resp) (s : State) : (reply r s).inq = s.inq := rfl
@[simp] theorem reply_engines (r : Resp) (s : State) : (reply r s).engines = s.engines := rfl
@[simp] theorem reply_calls (r : Resp) (s : State) : (reply r s).calls = s.calls := rfl
@[simp] theorem reply_synths (r : Resp) (s : State) : (reply r s).synths = s.synths := rfl
@[simp] theorem reply_resp (r : Resp) (s : State) : (reply r s).resp = r := rfl
@[simp] theorem reply_engResps (r : Resp) (s : State) : (reply r s).engResps = s.engResps := rfl

@[simp] theorem raiseFault_cfg (f : Fault) (s : State) : (raiseFault f s).cfg = s.cfg := rfl
@[simp] theorem raiseFault_sched (f : Fault) (s : State) : (raiseFault f s).sched = s.sched := rfl
@[simp] theorem raiseFault_bus (f : Fault) (s : State) : (raiseFault f s).bus = s.bus := rfl
@[simp] theorem raiseFault_vdp (f : Fault) (s : State) : (raiseFault f s).vdp = s.vdp := rfl
@[simp] theorem raiseFault_snd (f : Fault) (s : State) : (raiseFault f s).snd = s.snd := rfl
@[simp] theorem raiseFault_host (f : Fault) (s : State) : (raiseFault f s).host = s.host := rfl
@[simp] theorem raiseFault_fault (f : Fault) (s : State) : (raiseFault f s).fault = some (s.fault.getD f) := rfl
@[simp] theorem raiseFault_inq (f : Fault) (s : State) : (raiseFault f s).inq = s.inq := rfl
@[simp] theorem raiseFault_engines (f : Fault) (s : State) : (raiseFault f s).engines = s.engines := rfl
@[simp] theorem raiseFault_calls (f : Fault) (s : State) : (raiseFault f s).calls = s.calls := rfl
@[simp] theorem raiseFault_synths (f : Fault) (s : State) : (raiseFault f s).synths = s.synths := rfl
@[simp] theorem raiseFault_resp (f : Fault) (s : State) : (raiseFault f s).resp = s.resp := rfl
@[simp] theorem raiseFault_engResps (f : Fault) (s : State) : (raiseFault f s).engResps = s.engResps := rfl

@[simp] theorem proceed_none (s : State) (f : State → State) (h : s.fault = none) : proceed s f = f s := by
  simp [proceed, h]

@[simp] theorem proceed_some (s : State) (f : State → State) (h : s.fault ≠ none) : proceed s f = s := by
  simp [proceed, h]

/-- What holds of a state and is kept by `f` holds after `proceed`. -/
theorem proceed_keeps {P : State → Prop} {s : State} {f : State → State} (h : P s) (hf : P s → P (f s)) :
    P (proceed s f) := by
  unfold proceed
  split
  · exact hf h
  · exact h

@[simp] theorem PerDev.get_set {α : Type} (p : PerDev α) (d : Device) (v : α) : (p.set d v).get d = v := by
  cases d <;> rfl

/-- The entry of the other device is kept. -/
theorem PerDev.get_set_ne {α : Type} (p : PerDev α) {d e : Device} (v : α) (h : e ≠ d) :
    (p.set d v).get e = p.get e := by
  cases d <;> cases e <;> first | rfl | exact absurd rfl h

end Sys2Proof.Machine
end

