-- ==== Sys2Proof/Laws/Ops.lean ====
section
/-! SUPPORT. What each shared operation can do, said once: the two guards, which groups of State the bus operations,
the acknowledge and the AUX port can change, what a sample is, and what the events of an engine's call can change. -/

namespace Sys2Proof.Machine

/-- An operation of a ready instance is performed. -/
theorem guarded_ready {s : State} (h : s.ready) (f : State → State) : guarded s f = .next (f s) := by
  simp [guarded, h.1, h.2]

/-- A guarded operation answers a next state exactly when the instance is ready. -/
theorem guarded_next {s t : State} {f : State → State} : guarded s f = .next t ↔ s.ready ∧ t = f s := by
  unfold guarded State.ready
  split
  · next hc =>
    cases hf : s.fault with
    | none => simp [hc, eq_comm]
    | some x => simp
  · next hc => simp [hc]

/-- A guarded operation never ends in a fault. -/
theorem guarded_not_fault {s : State} {f : State → State} {x : Fault} : guarded s f ≠ .fault x := by
  unfold guarded
  split
  · split <;> simp
  · simp

/-- A host operation of a ready instance outside a frame is performed. -/
theorem guardedHost_ready {s : State} (h : s.ready) (hf : s.sched.inFrame = false) (f : State → State) :
    guardedHost s f = .next (f s) := by
  simp [guardedHost, h.1, h.2, hf]

/-- A host operation answers a next state exactly when the instance is ready and outside a frame. -/
theorem guardedHost_next {s t : State} {f : State → State} :
    guardedHost s f = .next t ↔ s.ready ∧ s.sched.inFrame = false ∧ t = f s := by
  unfold guardedHost State.ready
  split
  · next hc =>
    cases hf : s.fault with
    | none => cases hi : s.sched.inFrame <;> simp [hc, eq_comm]
    | some x => simp
  · next hc => simp [hc]

/-- Only the VDP group differs. -/
def OnlyVdp (s t : State) : Prop := t = setVdp s t.vdp

/-- Only the bus, VDP and sound groups differ. -/
def OnlyDevices (s t : State) : Prop := t = { s with bus := t.bus, vdp := t.vdp, snd := t.snd }

theorem OnlyVdp.refl (s : State) : OnlyVdp s s := rfl

theorem OnlyVdp.set (s : State) (v : Vdp) : OnlyVdp s (setVdp s v) := rfl

theorem OnlyVdp.trans {s t u : State} (h : OnlyVdp s t) (k : OnlyVdp t u) : OnlyVdp s u := by
  unfold OnlyVdp at *
  rw [k, h]
  rfl

theorem OnlyVdp.devices {s t : State} (h : OnlyVdp s t) : OnlyDevices s t := by
  unfold OnlyVdp OnlyDevices at *
  rw [h]
  rfl

theorem OnlyDevices.refl (s : State) : OnlyDevices s s := rfl

theorem OnlyDevices.setVdp (s : State) (x : Vdp) : OnlyDevices s (setVdp s x) := rfl

theorem OnlyDevices.setBus (s : State) (x : Bus) : OnlyDevices s (setBus s x) := rfl

theorem OnlyDevices.setSnd (s : State) (x : Snd) : OnlyDevices s (setSnd s x) := rfl

theorem OnlyDevices.trans {s t u : State} (h : OnlyDevices s t) (k : OnlyDevices t u) : OnlyDevices s u := by
  unfold OnlyDevices at *
  rw [k, h]

/-- The two ports of the VDP change the VDP only. -/
theorem vdpBlockRead8_only (a : Addr) (o : BitVec 5) (s : State) : OnlyVdp s (vdpBlockRead8 a o s).2 := by
  unfold vdpBlockRead8
  split <;> rfl

/-- A byte read changes the VDP only. -/
theorem busRd8_only (a : Addr) (s : State) : OnlyVdp s (busRd8 a s).2 := by
  unfold busRd8
  split <;> first
    | rfl
    | exact vdpBlockRead8_only _ _ _
    | (unfold ioBlockRead8; split <;> rfl)

/-- Two byte reads change the VDP only. -/
theorem splitRd16_only (a : Addr) (s : State) : OnlyVdp s (splitRd16 a s).2 :=
  (busRd8_only a s).trans (busRd8_only _ _)

/-- A word read changes the VDP only. -/
theorem busRd16_only (a : Addr) (s : State) : OnlyVdp s (busRd16 a s).2 := by
  unfold busRd16
  split
  · split <;> first
      | rfl
      | exact splitRd16_only a s
  · exact splitRd16_only a s

/-- The units of a bus DMA change the VDP only. -/
theorem dmaBusLoop_only (hi : BitVec 7) (n : Nat) :
    ∀ (lo : Half) (s : State), OnlyVdp s (dmaBusLoop hi n lo s).2 := by
  induction n with
  | zero => exact fun lo s => rfl
  | succ n ih => exact fun lo s => ((busRd16_only _ s).trans (OnlyVdp.set _ _)).trans (ih _ _)

/-- A bus DMA changes the VDP only. -/
theorem dmaBus_only (hi : BitVec 7) (s : State) : OnlyVdp s (dmaBus hi s) :=
  (dmaBusLoop_only hi _ _ s).trans (OnlyVdp.set _ _)

/-- Starting a DMA changes the VDP only. -/
theorem dmaStart_only (s : State) : OnlyVdp s (dmaStart s) := by
  unfold dmaStart
  split
  · exact dmaBus_only _ s
  · rfl
  · rfl

/-- A command changes the VDP only. -/
theorem vdpCommand_only (w : CmdWord) (s : State) : OnlyVdp s (vdpCommand w s) := by
  unfold vdpCommand
  dsimp only
  split
  · exact (OnlyVdp.set s _).trans (dmaStart_only _)
  · rfl

/-- A control-port write changes the VDP only. -/
theorem ctrlPortWrite16_only (w : Half) (s : State) : OnlyVdp s (ctrlPortWrite16 w s) := by
  unfold ctrlPortWrite16
  split
  · exact (OnlyVdp.set s _).trans (vdpCommand_only _ _)
  · split <;> rfl

/-- A byte write inside the VDP block changes the devices only. -/
theorem vdpBlockWrite8_only (now : Nat) (o : BitVec 5) (v : Byte) (s : State) :
    OnlyDevices s (vdpBlockWrite8 now o v s) := by
  unfold vdpBlockWrite8
  split
  · rfl
  · exact (ctrlPortWrite16_only _ s).devices
  · rfl
  · rfl

/-- A byte write changes the devices only. -/
theorem busWr8_only (now : Nat) (a : Addr) (v : Byte) (s : State) : OnlyDevices s (busWr8 now a v s) := by
  unfold busWr8
  split <;> first
    | rfl
    | exact vdpBlockWrite8_only _ _ _ _
    | (unfold ioBlockWrite8; split <;> rfl)

/-- Two byte writes change the devices only. -/
theorem splitWr16_only (now : Nat) (a : Addr) (v : Half) (s : State) : OnlyDevices s (splitWr16 now a v s) :=
  (busWr8_only now a _ s).trans (busWr8_only now _ _ _)

/-- A word write changes the devices only. -/
theorem busWr16_only (now : Nat) (a : Addr) (v : Half) (s : State) : OnlyDevices s (busWr16 now a v s) := by
  unfold busWr16
  split
  · split
    · rfl
    · exact (ctrlPortWrite16_only _ s).devices
    · exact splitWr16_only now a v s
    · exact splitWr16_only now a v s
  · exact splitWr16_only now a v s

/-- An AUX-port read changes the VDP only. -/
theorem auxRd8_only (a : AuxAddr) (s : State) : OnlyVdp s (auxRd8 a s).2 := by
  unfold auxRd8
  split <;> first
    | rfl
    | exact busRd8_only _ s

/-- An AUX-port write changes the devices only. -/
theorem auxWr8_only (now : Nat) (a : AuxAddr) (v : Byte) (s : State) : OnlyDevices s (auxWr8 now a v s) := by
  unfold auxWr8
  split <;> first
    | rfl
    | exact busWr8_only _ _ _ s

/-- An acknowledge changes nothing but the two latches and the status bit it clears (60_exceptions.md R556). -/
theorem intAck_only (n : Nat) (s : State) :
    ∃ h v f, (intAck n s).2 = setVdp (setSched s { s.sched with irqH := h, irqV := v }) { s.vdp with stF := f } := by
  unfold intAck
  split
  · exact ⟨s.sched.irqH, false, false, rfl⟩
  · split
    · exact ⟨false, s.sched.irqV, s.vdp.stF, rfl⟩
    · exact ⟨s.sched.irqH, s.sched.irqV, s.vdp.stF, rfl⟩

/-- Whatever group an update leaves alone, the configuration is one: no operation changes it. -/
theorem OnlyDevices.cfg {s t : State} (h : OnlyDevices s t) : t.cfg = s.cfg := by
  unfold OnlyDevices at h
  rw [h]

theorem OnlyDevices.sched {s t : State} (h : OnlyDevices s t) : t.sched = s.sched := by
  unfold OnlyDevices at h
  rw [h]

theorem OnlyDevices.host {s t : State} (h : OnlyDevices s t) : t.host = s.host := by
  unfold OnlyDevices at h
  rw [h]

theorem OnlyDevices.fault {s t : State} (h : OnlyDevices s t) : t.fault = s.fault := by
  unfold OnlyDevices at h
  rw [h]

theorem OnlyVdp.bus {s t : State} (h : OnlyVdp s t) : t.bus = s.bus := by
  unfold OnlyVdp at h
  rw [h]
  rfl

theorem OnlyVdp.snd {s t : State} (h : OnlyVdp s t) : t.snd = s.snd := by
  unfold OnlyVdp at h
  rw [h]
  rfl

theorem OnlyVdp.cfg {s t : State} (h : OnlyVdp s t) : t.cfg = s.cfg := h.devices.cfg

/-- A location the host holds with nothing waiting gives its value and stays as it is (20_memory.md R130, log 7). -/
theorem sampleCell_held {α : Type} (draw : Nat → α) (c : Cell α) (hc : c.coming = []) (hh : c.held = true) :
    sampleCell draw c = (c.value, c) := by
  simp [sampleCell, hc, hh]

/-- A location holds what its last sample was. -/
theorem sampleCell_value {α : Type} (draw : Nat → α) (c : Cell α) :
    (sampleCell draw c).2.value = (sampleCell draw c).1 := by
  unfold sampleCell
  split
  · rfl
  · rfl
  · split <;> rfl

/-- Only what an engine's call can reach differs: the devices, the two latches, the mailbox, the fault record and the
responses (41_frame_scheduler.md R284). -/
def OnlyCall (s t : State) : Prop :=
  t = { s with
    sched := { s.sched with irqH := t.sched.irqH, irqV := t.sched.irqV }
    bus := t.bus
    vdp := t.vdp
    snd := t.snd
    host := t.host
    fault := t.fault
    resp := t.resp
    engResps := t.engResps }

theorem OnlyCall.refl (s : State) : OnlyCall s s := rfl

theorem OnlyCall.trans {s t u : State} (h : OnlyCall s t) (k : OnlyCall t u) : OnlyCall s u := by
  unfold OnlyCall at *
  rw [k, h]

theorem OnlyDevices.call {s t : State} (h : OnlyDevices s t) : OnlyCall s t := by
  unfold OnlyDevices at h
  unfold OnlyCall
  rw [h]

/-- A response changes the response only. -/
theorem OnlyCall.reply {s t : State} (h : OnlyCall s t) (r : Resp) : OnlyCall s (reply r t) := by
  unfold OnlyCall at *
  rw [h]
  rfl

theorem intAck_call (n : Nat) (s : State) : OnlyCall s (intAck n s).2 := by
  obtain ⟨h, v, f, e⟩ := intAck_only n s
  unfold OnlyCall
  rw [e]
  rfl

/-- An operation of the MAIN engine. -/
theorem mainOp_call (t : Nat) (o : EngOp) (s : State) : OnlyCall s (mainOp t o s) := by
  cases o with
  | rd8 a => exact (busRd8_only a s).devices.call.reply _
  | rd16 a => exact (busRd16_only a s).devices.call.reply _
  | wr8 a v => exact (busWr8_only _ a v s).call.reply _
  | wr16 a v => exact (busWr16_only _ a v s).call.reply _
  | ack n => exact (intAck_call _ s).reply _
  | ard8 a => rfl
  | awr8 a v => rfl

/-- An operation of the AUX engine. -/
theorem auxOp_call (t : Nat) (o : EngOp) (s : State) : OnlyCall s (auxOp t o s) := by
  cases o with
  | ard8 a => exact (auxRd8_only a s).devices.call.reply _
  | awr8 a v => exact (auxWr8_only _ a v s).call.reply _
  | rd8 a => rfl
  | rd16 a => rfl
  | wr8 a v => rfl
  | wr16 a v => rfl
  | ack n => rfl

theorem noteResp_call {s t : State} (h : OnlyCall s t) : OnlyCall s (noteResp t) := by
  unfold OnlyCall at *
  rw [h]
  rfl

/-- One event of a call reaches nothing else: not the line, the odometers, the targets, the picture or the record of
calls. -/
theorem engineEvent_call (d : Device) (last : Nat) (e : Event) (s : State) : OnlyCall s (engineEvent d last e s) := by
  cases e with
  | op t o =>
    simp only [engineEvent, engineOp]
    split
    · rfl
    · cases d
      · exact proceed_keeps (P := OnlyCall s) (mainOp_call t o s) noteResp_call
      · exact proceed_keeps (P := OnlyCall s) (auxOp_call t o s) noteResp_call
  | look => cases d <;> rfl
  | host h => rfl

/-- All the events of a recorded call. -/
theorem runEvents_call (d : Device) (l : List Event) :
    ∀ (last : Nat) (s : State), OnlyCall s (runEvents d l last s).2 := by
  induction l with
  | nil => exact fun _ s => .refl s
  | cons e r ih =>
    intro last s
    simp only [runEvents]
    split
    · exact (engineEvent_call d last e s).trans (ih _ _)
    · exact engineEvent_call d last e s

/-- All the events of a call no record gives. -/
theorem runFree_call (d : Device) (call b n : Nat) :
    ∀ (k last : Nat) (s : State), OnlyCall s (runFree d call b n k last s).2 := by
  induction n with
  | zero => exact fun _ _ s => .refl s
  | succ n ih =>
    intro k last s
    simp only [runFree]
    split
    · exact .refl s
    · next e _ =>
      split
      · exact (engineEvent_call d last e s).trans (ih _ _ _)
      · exact engineEvent_call d last e s

/-- A whole call, whichever record or free value it comes from: against the state with the call taken. -/
theorem callBody_call (d : Device) (b : Nat) (s : State) : OnlyCall (takeCall d s) (callBody d b s).2.2 := by
  unfold callBody
  split
  · exact runEvents_call d _ _ _
  · exact runFree_call d _ _ _ _ _ _

/-! The four accesses of the video memories at an index inside them. -/

theorem vramPut_of_lt {c : Cfg} {A : Nat} (h : A < c.vramSize) (x : Byte) (v : Vdp) :
    vramPut c A x v = dirtyVramAt A { v with vram := Memory.put 0 v.vram A x } := if_pos h

theorem cramPut_of_lt {c : Cfg} {e : Nat} (h : e < c.cramN) (d : Half) (v : Vdp) :
    cramPut c e d v = dirtyCramAt e { v with cram := Memory.put 0 v.cram e d } := if_pos h

theorem vramGet_of_lt {c : Cfg} {A : Nat} (h : A < c.vramSize) (v : Vdp) :
    vramGet c v A = Memory.get 0 v.vram A := if_pos h

theorem cramGet_of_lt {c : Cfg} {e : Nat} (h : e < c.cramN) (v : Vdp) :
    cramGet c v e = Memory.get 0 v.cram e := if_pos h

end Sys2Proof.Machine
end

