-- ==== Sys2Proof/Laws/PerInstr.lean ====
section
/-! SUPPORT. For each operation: the table has a reader at its row, and that reader, given the operation's word and the
bytes of its operands, gives the operation back and leaves what follows. -/

namespace Sys2Proof.Laws.RowReader

open Machine

-- One thread: these many small proofs, elaborated at once, ask for more threads than the memory limit allows.
set_option Elab.async false

/-- The reader of the operation's row reads the operation back. -/
def Statement (i : Instr) : Prop :=
  i.wf = true → ∃ f, readerTable[rowOf i]? = some f ∧ ∀ r, f (rowWord i) (operandBytes i ++ r) = some (i, r)

theorem operandsWf_of_wf {i : Instr} (h : i.wf = true) : operandsWf i = true := by
  unfold Instr.wf at h
  exact (Bool.and_eq_true _ _ ▸ h).2

theorem ctx_of_wf {i : Instr} {x : Ctx} (h : i.wf = true) (k : operandsWf i = x.wf := by rfl) : x.wf = true :=
  k ▸ operandsWf_of_wf h

theorem ctx_of_wfWrite {i : Instr} {x : Ctx} (h : i.wf = true) (k : operandsWf i = x.wfWrite := by rfl) :
    x.wf = true := by
  have h2 : x.wfWrite = true := k ▸ operandsWf_of_wf h
  unfold Ctx.wfWrite at h2
  exact (Bool.and_eq_true _ _ ▸ h2).1

theorem int_of_wf {n : Int} (h : (Instr.drawline n).wf = true) : -0x80000000 ≤ n ∧ n < 0x80000000 := by
  have h2 := operandsWf_of_wf h
  simpa [operandsWf] using h2

theorem image_exact : Codec.image.Exact fun i => nat32 i.len = true ∧ i.bytes.length < 0x100000000 ∧
    ∀ c ∈ i.bytes, nat32 c.1 = true :=
  Codec.map_exact
    (Codec.pair_exact Codec.nat_exact (Codec.list_exact (Codec.pair_exact Codec.nat_exact Codec.byte_exact))) _ _
    (fun _ h => ⟨h.1, h.2.1, fun c hc => ⟨h.2.2 c hc, trivial⟩⟩) (fun _ _ => rfl)

theorem image_of_wf {i : Image} (h : (Instr.hostLoad i).wf = true) : nat32 i.len = true ∧
    i.bytes.length < 0x100000000 ∧ ∀ c ∈ i.bytes, nat32 c.1 = true := by
  have h2 := operandsWf_of_wf h
  simp only [operandsWf, Image.wf, Bool.and_eq_true, decide_eq_true_eq, List.all_eq_true, nat32] at h2 ⊢
  exact ⟨h2.1.1.1, h2.2, fun c hc => Nat.lt_trans (h2.1.1.2 c hc).1 h2.1.1.1⟩

theorem codes_exact : Codec.codes.Exact fun l => l.length < 0x100000000 :=
  fun l h r => Codec.list_exact (Codec.pair_exact (Codec.bits_exact 3 24 (by decide) (by decide)) Codec.half_exact) l
    ⟨h, fun _ _ => ⟨trivial, trivial⟩⟩ r

theorem codes_of_wf {l : List (Addr × Half)} (h : (Instr.hostPatch l).wf = true) : l.length < 0x100000000 := by
  have h2 := operandsWf_of_wf h
  simpa [operandsWf] using h2

theorem rd8 (x : Ctx) (a : Addr) : Statement (.rd8 x a) :=
  fun h => ⟨_, rfl, fun tl => reads_exact (Codec.pair_exact (Codec.bits_exact 3 24 (by decide) (by decide)) Codec.ctx_exact) _ _ _ ⟨trivial, ctx_of_wf h⟩ tl⟩

theorem rd16 (x : Ctx) (a : Addr) : Statement (.rd16 x a) :=
  fun h => ⟨_, rfl, fun tl => reads_exact (Codec.pair_exact (Codec.bits_exact 3 24 (by decide) (by decide)) Codec.ctx_exact) _ _ _ ⟨trivial, ctx_of_wf h⟩ tl⟩

theorem wr8 (x : Ctx) (a : Addr) (v : Byte) : Statement (.wr8 x a v) :=
  fun h => ⟨_, rfl, fun tl => reads_exact (Codec.pair_exact (Codec.bits_exact 3 24 (by decide) (by decide)) (Codec.pair_exact Codec.byte_exact Codec.ctx_exact)) _ _ _ ⟨trivial, trivial, ctx_of_wfWrite h⟩ tl⟩

theorem wr16 (x : Ctx) (a : Addr) (v : Half) : Statement (.wr16 x a v) :=
  fun h => ⟨_, rfl, fun tl => reads_exact (Codec.pair_exact (Codec.bits_exact 3 24 (by decide) (by decide)) (Codec.pair_exact Codec.half_exact Codec.ctx_exact)) _ _ _ ⟨trivial, trivial, ctx_of_wfWrite h⟩ tl⟩

theorem rd8Sram (x : Ctx) (a : Addr) : Statement (.rd8Sram x a) :=
  fun h => ⟨_, rfl, fun tl => by
    refine (reads_exact (Codec.ctx_exact) _ _ _ (ctx_of_wf h) tl).trans ?_
    simp only [rowWord]
    rw [field_of_setWidth _ 32 (by decide)]⟩

theorem wr8Sram (x : Ctx) (a : Addr) (v : Byte) : Statement (.wr8Sram x a v) :=
  fun h => ⟨_, rfl, fun tl => by
    refine (reads_exact ((Codec.pair_exact Codec.byte_exact Codec.ctx_exact)) _ _ _ ⟨trivial, ctx_of_wfWrite h⟩ tl).trans ?_
    simp only [rowWord]
    rw [field_of_setWidth _ 32 (by decide)]⟩

theorem rd8Rom (x : Ctx) (a : Addr) : Statement (.rd8Rom x a) :=
  fun h => ⟨_, rfl, fun tl => by
    refine (reads_exact (Codec.ctx_exact) _ _ _ (ctx_of_wf h) tl).trans ?_
    simp only [rowWord]
    rw [field_of_setWidth _ 32 (by decide)]⟩

theorem wr8Rom (x : Ctx) (a : Addr) (v : Byte) : Statement (.wr8Rom x a v) :=
  fun h => ⟨_, rfl, fun tl => by
    refine (reads_exact ((Codec.pair_exact Codec.byte_exact Codec.ctx_exact)) _ _ _ ⟨trivial, ctx_of_wfWrite h⟩ tl).trans ?_
    simp only [rowWord]
    rw [field_of_setWidth _ 32 (by decide)]⟩

theorem rd8Cartopen (x : Ctx) (a : Addr) : Statement (.rd8Cartopen x a) :=
  fun h => ⟨_, rfl, fun tl => by
    refine (reads_exact (Codec.ctx_exact) _ _ _ (ctx_of_wf h) tl).trans ?_
    simp only [rowWord]
    rw [field_of_setWidth _ 32 (by decide)]⟩

theorem wr8Cartopen (x : Ctx) (a : Addr) (v : Byte) : Statement (.wr8Cartopen x a v) :=
  fun h => ⟨_, rfl, fun tl => by
    refine (reads_exact ((Codec.pair_exact Codec.byte_exact Codec.ctx_exact)) _ _ _ ⟨trivial, ctx_of_wfWrite h⟩ tl).trans ?_
    simp only [rowWord]
    rw [field_of_setWidth _ 32 (by decide)]⟩

theorem rd8Zram (x : Ctx) (a : Addr) : Statement (.rd8Zram x a) :=
  fun h => ⟨_, rfl, fun tl => by
    refine (reads_exact (Codec.ctx_exact) _ _ _ (ctx_of_wf h) tl).trans ?_
    simp only [rowWord]
    rw [field_of_setWidth _ 32 (by decide)]⟩

theorem wr8Zram (x : Ctx) (a : Addr) (v : Byte) : Statement (.wr8Zram x a v) :=
  fun h => ⟨_, rfl, fun tl => by
    refine (reads_exact ((Codec.pair_exact Codec.byte_exact Codec.ctx_exact)) _ _ _ ⟨trivial, ctx_of_wfWrite h⟩ tl).trans ?_
    simp only [rowWord]
    rw [field_of_setWidth _ 32 (by decide)]⟩

theorem rd8Fm (x : Ctx) (a : Addr) : Statement (.rd8Fm x a) :=
  fun h => ⟨_, rfl, fun tl => by
    refine (reads_exact (Codec.ctx_exact) _ _ _ (ctx_of_wf h) tl).trans ?_
    simp only [rowWord]
    rw [field_of_setWidth _ 32 (by decide)]⟩

theorem wr8Fm (x : Ctx) (a : Addr) (v : Byte) : Statement (.wr8Fm x a v) :=
  fun h => ⟨_, rfl, fun tl => by
    refine (reads_exact ((Codec.pair_exact Codec.byte_exact Codec.ctx_exact)) _ _ _ ⟨trivial, ctx_of_wfWrite h⟩ tl).trans ?_
    simp only [rowWord]
    rw [field_of_setWidth _ 32 (by decide)]⟩

theorem rd8Banksel (x : Ctx) (a : Addr) : Statement (.rd8Banksel x a) :=
  fun h => ⟨_, rfl, fun tl => by
    refine (reads_exact (Codec.ctx_exact) _ _ _ (ctx_of_wf h) tl).trans ?_
    simp only [rowWord]
    rw [field_of_setWidth _ 32 (by decide)]⟩

theorem wr8Banksel (x : Ctx) (a : Addr) (v : Byte) : Statement (.wr8Banksel x a v) :=
  fun h => ⟨_, rfl, fun tl => by
    refine (reads_exact ((Codec.pair_exact Codec.byte_exact Codec.ctx_exact)) _ _ _ ⟨trivial, ctx_of_wfWrite h⟩ tl).trans ?_
    simp only [rowWord]
    rw [field_of_setWidth _ 32 (by decide)]⟩

theorem rd8Io (x : Ctx) (a : Addr) : Statement (.rd8Io x a) :=
  fun h => ⟨_, rfl, fun tl => by
    refine (reads_exact (Codec.ctx_exact) _ _ _ (ctx_of_wf h) tl).trans ?_
    simp only [rowWord]
    rw [field_of_setWidth _ 32 (by decide)]⟩

theorem wr8Io (x : Ctx) (a : Addr) (v : Byte) : Statement (.wr8Io x a v) :=
  fun h => ⟨_, rfl, fun tl => by
    refine (reads_exact ((Codec.pair_exact Codec.byte_exact Codec.ctx_exact)) _ _ _ ⟨trivial, ctx_of_wfWrite h⟩ tl).trans ?_
    simp only [rowWord]
    rw [field_of_setWidth _ 32 (by decide)]⟩

theorem rd8Sramctl (x : Ctx) (a : Addr) : Statement (.rd8Sramctl x a) :=
  fun h => ⟨_, rfl, fun tl => by
    refine (reads_exact (Codec.ctx_exact) _ _ _ (ctx_of_wf h) tl).trans ?_
    simp only [rowWord]
    rw [field_of_setWidth _ 32 (by decide)]⟩

theorem wr8Sramctl (x : Ctx) (a : Addr) (v : Byte) : Statement (.wr8Sramctl x a v) :=
  fun h => ⟨_, rfl, fun tl => by
    refine (reads_exact ((Codec.pair_exact Codec.byte_exact Codec.ctx_exact)) _ _ _ ⟨trivial, ctx_of_wfWrite h⟩ tl).trans ?_
    simp only [rowWord]
    rw [field_of_setWidth _ 32 (by decide)]⟩

theorem rd8Vdp (x : Ctx) (a : Addr) : Statement (.rd8Vdp x a) :=
  fun h => ⟨_, rfl, fun tl => by
    refine (reads_exact (Codec.ctx_exact) _ _ _ (ctx_of_wf h) tl).trans ?_
    simp only [rowWord]
    rw [field_of_setWidth _ 32 (by decide)]⟩

theorem wr8Vdp (x : Ctx) (a : Addr) (v : Byte) : Statement (.wr8Vdp x a v) :=
  fun h => ⟨_, rfl, fun tl => by
    refine (reads_exact ((Codec.pair_exact Codec.byte_exact Codec.ctx_exact)) _ _ _ ⟨trivial, ctx_of_wfWrite h⟩ tl).trans ?_
    simp only [rowWord]
    rw [field_of_setWidth _ 32 (by decide)]⟩

theorem rd8Ram (x : Ctx) (a : Addr) : Statement (.rd8Ram x a) :=
  fun h => ⟨_, rfl, fun tl => by
    refine (reads_exact (Codec.ctx_exact) _ _ _ (ctx_of_wf h) tl).trans ?_
    simp only [rowWord]
    rw [field_of_setWidth _ 32 (by decide)]⟩

theorem wr8Ram (x : Ctx) (a : Addr) (v : Byte) : Statement (.wr8Ram x a v) :=
  fun h => ⟨_, rfl, fun tl => by
    refine (reads_exact ((Codec.pair_exact Codec.byte_exact Codec.ctx_exact)) _ _ _ ⟨trivial, ctx_of_wfWrite h⟩ tl).trans ?_
    simp only [rowWord]
    rw [field_of_setWidth _ 32 (by decide)]⟩

theorem rd8Open (x : Ctx) (a : Addr) : Statement (.rd8Open x a) :=
  fun h => ⟨_, rfl, fun tl => by
    refine (reads_exact (Codec.ctx_exact) _ _ _ (ctx_of_wf h) tl).trans ?_
    simp only [rowWord]
    rw [field_of_setWidth _ 32 (by decide)]⟩

theorem wr8Open (x : Ctx) (a : Addr) (v : Byte) : Statement (.wr8Open x a v) :=
  fun h => ⟨_, rfl, fun tl => by
    refine (reads_exact ((Codec.pair_exact Codec.byte_exact Codec.ctx_exact)) _ _ _ ⟨trivial, ctx_of_wfWrite h⟩ tl).trans ?_
    simp only [rowWord]
    rw [field_of_setWidth _ 32 (by decide)]⟩

theorem rd16Vdpdata (x : Ctx) (a : Addr) : Statement (.rd16Vdpdata x a) :=
  fun h => ⟨_, rfl, fun tl => by
    refine (reads_exact (Codec.ctx_exact) _ _ _ (ctx_of_wf h) tl).trans ?_
    simp only [rowWord]
    rw [field_of_setWidth _ 32 (by decide)]⟩

theorem wr16Vdpdata (x : Ctx) (a : Addr) (v : Half) : Statement (.wr16Vdpdata x a v) :=
  fun h => ⟨_, rfl, fun tl => by
    refine (reads_exact ((Codec.pair_exact Codec.half_exact Codec.ctx_exact)) _ _ _ ⟨trivial, ctx_of_wfWrite h⟩ tl).trans ?_
    simp only [rowWord]
    rw [field_of_setWidth _ 32 (by decide)]⟩

theorem rd16Vdpctrl (x : Ctx) (a : Addr) : Statement (.rd16Vdpctrl x a) :=
  fun h => ⟨_, rfl, fun tl => by
    refine (reads_exact (Codec.ctx_exact) _ _ _ (ctx_of_wf h) tl).trans ?_
    simp only [rowWord]
    rw [field_of_setWidth _ 32 (by decide)]⟩

theorem wr16Vdpctrl (x : Ctx) (a : Addr) (v : Half) : Statement (.wr16Vdpctrl x a v) :=
  fun h => ⟨_, rfl, fun tl => by
    refine (reads_exact ((Codec.pair_exact Codec.half_exact Codec.ctx_exact)) _ _ _ ⟨trivial, ctx_of_wfWrite h⟩ tl).trans ?_
    simp only [rowWord]
    rw [field_of_setWidth _ 32 (by decide)]⟩

theorem rd8Vdpdata (x : Ctx) (a : Addr) : Statement (.rd8Vdpdata x a) :=
  fun h => ⟨_, rfl, fun tl => by
    refine (reads_exact (Codec.ctx_exact) _ _ _ (ctx_of_wf h) tl).trans ?_
    simp only [rowWord]
    rw [field_of_setWidth _ 32 (by decide)]⟩

theorem wr8Vdpdata (x : Ctx) (a : Addr) (v : Byte) : Statement (.wr8Vdpdata x a v) :=
  fun h => ⟨_, rfl, fun tl => by
    refine (reads_exact ((Codec.pair_exact Codec.byte_exact Codec.ctx_exact)) _ _ _ ⟨trivial, ctx_of_wfWrite h⟩ tl).trans ?_
    simp only [rowWord]
    rw [field_of_setWidth _ 32 (by decide)]⟩

theorem rd8Vdpctrl (x : Ctx) (a : Addr) : Statement (.rd8Vdpctrl x a) :=
  fun h => ⟨_, rfl, fun tl => by
    refine (reads_exact (Codec.ctx_exact) _ _ _ (ctx_of_wf h) tl).trans ?_
    simp only [rowWord]
    rw [field_of_setWidth _ 32 (by decide)]⟩

theorem wr8Vdpctrl (x : Ctx) (a : Addr) (v : Byte) : Statement (.wr8Vdpctrl x a v) :=
  fun h => ⟨_, rfl, fun tl => by
    refine (reads_exact ((Codec.pair_exact Codec.byte_exact Codec.ctx_exact)) _ _ _ ⟨trivial, ctx_of_wfWrite h⟩ tl).trans ?_
    simp only [rowWord]
    rw [field_of_setWidth _ 32 (by decide)]⟩

theorem rd8Psg (x : Ctx) (a : Addr) : Statement (.rd8Psg x a) :=
  fun h => ⟨_, rfl, fun tl => by
    refine (reads_exact (Codec.ctx_exact) _ _ _ (ctx_of_wf h) tl).trans ?_
    simp only [rowWord]
    rw [field_of_setWidth _ 32 (by decide)]⟩

theorem wr8Psg (x : Ctx) (a : Addr) (v : Byte) : Statement (.wr8Psg x a v) :=
  fun h => ⟨_, rfl, fun tl => by
    refine (reads_exact ((Codec.pair_exact Codec.byte_exact Codec.ctx_exact)) _ _ _ ⟨trivial, ctx_of_wfWrite h⟩ tl).trans ?_
    simp only [rowWord]
    rw [field_of_setWidth _ 32 (by decide)]⟩

theorem rd8Vdpnone (x : Ctx) (a : Addr) : Statement (.rd8Vdpnone x a) :=
  fun h => ⟨_, rfl, fun tl => by
    refine (reads_exact (Codec.ctx_exact) _ _ _ (ctx_of_wf h) tl).trans ?_
    simp only [rowWord]
    rw [field_of_setWidth _ 32 (by decide)]⟩

theorem wr8Vdpnone (x : Ctx) (a : Addr) (v : Byte) : Statement (.wr8Vdpnone x a v) :=
  fun h => ⟨_, rfl, fun tl => by
    refine (reads_exact ((Codec.pair_exact Codec.byte_exact Codec.ctx_exact)) _ _ _ ⟨trivial, ctx_of_wfWrite h⟩ tl).trans ?_
    simp only [rowWord]
    rw [field_of_setWidth _ 32 (by decide)]⟩

theorem wr8FmAddr0 (x : Ctx) (a : Addr) (v : Byte) : Statement (.wr8FmAddr0 x a v) :=
  fun h => ⟨_, rfl, fun tl => by
    refine (reads_exact ((Codec.pair_exact Codec.byte_exact Codec.ctx_exact)) _ _ _ ⟨trivial, ctx_of_wfWrite h⟩ tl).trans ?_
    simp only [rowWord]
    rw [field_of_setWidth _ 32 (by decide)]⟩

theorem wr8FmData0 (x : Ctx) (a : Addr) (v : Byte) : Statement (.wr8FmData0 x a v) :=
  fun h => ⟨_, rfl, fun tl => by
    refine (reads_exact ((Codec.pair_exact Codec.byte_exact Codec.ctx_exact)) _ _ _ ⟨trivial, ctx_of_wfWrite h⟩ tl).trans ?_
    simp only [rowWord]
    rw [field_of_setWidth _ 32 (by decide)]⟩

theorem wr8FmAddr1 (x : Ctx) (a : Addr) (v : Byte) : Statement (.wr8FmAddr1 x a v) :=
  fun h => ⟨_, rfl, fun tl => by
    refine (reads_exact ((Codec.pair_exact Codec.byte_exact Codec.ctx_exact)) _ _ _ ⟨trivial, ctx_of_wfWrite h⟩ tl).trans ?_
    simp only [rowWord]
    rw [field_of_setWidth _ 32 (by decide)]⟩

theorem wr8FmData1 (x : Ctx) (a : Addr) (v : Byte) : Statement (.wr8FmData1 x a v) :=
  fun h => ⟨_, rfl, fun tl => by
    refine (reads_exact ((Codec.pair_exact Codec.byte_exact Codec.ctx_exact)) _ _ _ ⟨trivial, ctx_of_wfWrite h⟩ tl).trans ?_
    simp only [rowWord]
    rw [field_of_setWidth _ 32 (by decide)]⟩

theorem rd8FmAny (x : Ctx) (a : Addr) : Statement (.rd8FmAny x a) :=
  fun h => ⟨_, rfl, fun tl => by
    refine (reads_exact (Codec.ctx_exact) _ _ _ (ctx_of_wf h) tl).trans ?_
    simp only [rowWord]
    rw [field_of_setWidth _ 32 (by decide)]⟩

theorem fmregMode (x : Ctx) (v : Byte) : Statement (.fmregMode x v) :=
  fun h => ⟨_, rfl, fun tl => reads_exact ((Codec.pair_exact Codec.byte_exact Codec.ctx_exact)) _ _ _ ⟨trivial, ctx_of_wfWrite h⟩ tl⟩

theorem fmregDacdata (x : Ctx) (v : Byte) : Statement (.fmregDacdata x v) :=
  fun h => ⟨_, rfl, fun tl => reads_exact ((Codec.pair_exact Codec.byte_exact Codec.ctx_exact)) _ _ _ ⟨trivial, ctx_of_wfWrite h⟩ tl⟩

theorem fmregDacen (x : Ctx) (v : Byte) : Statement (.fmregDacen x v) :=
  fun h => ⟨_, rfl, fun tl => reads_exact ((Codec.pair_exact Codec.byte_exact Codec.ctx_exact)) _ _ _ ⟨trivial, ctx_of_wfWrite h⟩ tl⟩

theorem fmregTaHi (x : Ctx) (v : Byte) : Statement (.fmregTaHi x v) :=
  fun h => ⟨_, rfl, fun tl => reads_exact ((Codec.pair_exact Codec.byte_exact Codec.ctx_exact)) _ _ _ ⟨trivial, ctx_of_wfWrite h⟩ tl⟩

theorem fmregTaLo (x : Ctx) (v : Byte) : Statement (.fmregTaLo x v) :=
  fun h => ⟨_, rfl, fun tl => reads_exact ((Codec.pair_exact Codec.byte_exact Codec.ctx_exact)) _ _ _ ⟨trivial, ctx_of_wfWrite h⟩ tl⟩

theorem fmregTb (x : Ctx) (v : Byte) : Statement (.fmregTb x v) :=
  fun h => ⟨_, rfl, fun tl => reads_exact ((Codec.pair_exact Codec.byte_exact Codec.ctx_exact)) _ _ _ ⟨trivial, ctx_of_wfWrite h⟩ tl⟩

theorem fmregOther (x : Ctx) (bank : BitVec 1) (r : Byte) (v : Byte) : Statement (.fmregOther x bank r v) :=
  fun h => ⟨_, rfl, fun tl => by
    refine (reads_exact ((Codec.pair_exact Codec.byte_exact Codec.ctx_exact)) _ _ _ ⟨trivial, ctx_of_wfWrite h⟩ tl).trans ?_
    simp only [rowWord]
    rw [field_setWidth _ 32 8 1 (by decide), field_setWidth _ 32 0 8 (by decide),
      field_append_hi _ _ _ _ (by decide), field_append_lo _ _ _ _ (by decide), field_self, field_self]⟩

theorem modeValue (x : Ctx) (v : Byte) : Statement (.modeValue x v) :=
  fun h => ⟨_, rfl, fun tl => by
    refine (reads_exact (Codec.ctx_exact) _ _ _ (ctx_of_wfWrite h) tl).trans ?_
    simp only [rowWord]
    rw [field_of_setWidth _ 32 (by decide)]⟩

theorem dacenValue (x : Ctx) (v : Byte) : Statement (.dacenValue x v) :=
  fun h => ⟨_, rfl, fun tl => by
    refine (reads_exact (Codec.ctx_exact) _ _ _ (ctx_of_wfWrite h) tl).trans ?_
    simp only [rowWord]
    rw [field_of_setWidth _ 32 (by decide)]⟩

theorem dacdataValue (x : Ctx) (v : Byte) : Statement (.dacdataValue x v) :=
  fun h => ⟨_, rfl, fun tl => by
    refine (reads_exact (Codec.ctx_exact) _ _ _ (ctx_of_wfWrite h) tl).trans ?_
    simp only [rowWord]
    rw [field_of_setWidth _ 32 (by decide)]⟩

theorem psgValue (x : Ctx) (v : Byte) : Statement (.psgValue x v) :=
  fun h => ⟨_, rfl, fun tl => by
    refine (reads_exact (Codec.ctx_exact) _ _ _ (ctx_of_wfWrite h) tl).trans ?_
    simp only [rowWord]
    rw [field_of_setWidth _ 32 (by decide)]⟩

theorem ioVersion (k : Access) : Statement (.ioVersion k) :=
  fun _ => ⟨_, rfl, fun tl => reads_exact (Codec.access_exact) _ _ _ trivial tl⟩

theorem ioData0 (k : Access) : Statement (.ioData0 k) :=
  fun _ => ⟨_, rfl, fun tl => reads_exact (Codec.access_exact) _ _ _ trivial tl⟩

theorem ioData1 (k : Access) : Statement (.ioData1 k) :=
  fun _ => ⟨_, rfl, fun tl => reads_exact (Codec.access_exact) _ _ _ trivial tl⟩

theorem ioData2 (k : Access) : Statement (.ioData2 k) :=
  fun _ => ⟨_, rfl, fun tl => reads_exact (Codec.access_exact) _ _ _ trivial tl⟩

theorem ioCtrl0 (k : Access) : Statement (.ioCtrl0 k) :=
  fun _ => ⟨_, rfl, fun tl => reads_exact (Codec.access_exact) _ _ _ trivial tl⟩

theorem ioCtrl1 (k : Access) : Statement (.ioCtrl1 k) :=
  fun _ => ⟨_, rfl, fun tl => reads_exact (Codec.access_exact) _ _ _ trivial tl⟩

theorem ioCtrl2 (k : Access) : Statement (.ioCtrl2 k) :=
  fun _ => ⟨_, rfl, fun tl => reads_exact (Codec.access_exact) _ _ _ trivial tl⟩

theorem ioSer0 (k : Access) : Statement (.ioSer0 k) :=
  fun _ => ⟨_, rfl, fun tl => reads_exact (Codec.access_exact) _ _ _ trivial tl⟩

theorem ioSer1 (k : Access) : Statement (.ioSer1 k) :=
  fun _ => ⟨_, rfl, fun tl => reads_exact (Codec.access_exact) _ _ _ trivial tl⟩

theorem ioSer2 (k : Access) : Statement (.ioSer2 k) :=
  fun _ => ⟨_, rfl, fun tl => reads_exact (Codec.access_exact) _ _ _ trivial tl⟩

theorem ioSer3 (k : Access) : Statement (.ioSer3 k) :=
  fun _ => ⟨_, rfl, fun tl => reads_exact (Codec.access_exact) _ _ _ trivial tl⟩

theorem ioSer4 (k : Access) : Statement (.ioSer4 k) :=
  fun _ => ⟨_, rfl, fun tl => reads_exact (Codec.access_exact) _ _ _ trivial tl⟩

theorem ioSer5 (k : Access) : Statement (.ioSer5 k) :=
  fun _ => ⟨_, rfl, fun tl => reads_exact (Codec.access_exact) _ _ _ trivial tl⟩

theorem ioSer6 (k : Access) : Statement (.ioSer6 k) :=
  fun _ => ⟨_, rfl, fun tl => reads_exact (Codec.access_exact) _ _ _ trivial tl⟩

theorem ioSer7 (k : Access) : Statement (.ioSer7 k) :=
  fun _ => ⟨_, rfl, fun tl => reads_exact (Codec.access_exact) _ _ _ trivial tl⟩

theorem ioSer8 (k : Access) : Statement (.ioSer8 k) :=
  fun _ => ⟨_, rfl, fun tl => reads_exact (Codec.access_exact) _ _ _ trivial tl⟩

theorem ioEven (a : Addr) (k : Access) : Statement (.ioEven a k) :=
  fun _ => ⟨_, rfl, fun tl => by
    refine (reads_exact (Codec.access_exact) _ _ _ trivial tl).trans ?_
    simp only [rowWord]
    rw [field_of_setWidth _ 32 (by decide)]⟩

theorem sramctlValue (v : Byte) : Statement (.sramctlValue v) :=
  fun _ => ⟨_, rfl, fun tl => by
    refine (reads_exact (Codec.unit_exact) _ _ () trivial tl).trans ?_
    simp only [rowWord]
    rw [field_of_setWidth _ 32 (by decide)]⟩

theorem bankselValue (v : Byte) : Statement (.bankselValue v) :=
  fun _ => ⟨_, rfl, fun tl => by
    refine (reads_exact (Codec.unit_exact) _ _ () trivial tl).trans ?_
    simp only [rowWord]
    rw [field_of_setWidth _ 32 (by decide)]⟩

theorem regset (z : BitVec 1) (r : BitVec 5) (d : Byte) : Statement (.regset z r d) :=
  fun _ => ⟨_, rfl, fun tl => by
    refine (reads_exact (Codec.unit_exact) _ _ () trivial tl).trans ?_
    simp only [rowWord]
    rw [field_setWidth _ 32 13 1 (by decide), field_setWidth _ 32 8 5 (by decide), field_setWidth _ 32 0 8 (by decide),
      regsetWord_z, regsetWord_r, regsetWord_d]⟩

theorem cmd1 (c : BitVec 2) (a : BitVec 14) : Statement (.cmd1 c a) :=
  fun _ => ⟨_, rfl, fun tl => by
    refine (reads_exact (Codec.unit_exact) _ _ () trivial tl).trans ?_
    simp only [rowWord]
    rw [field_setWidth _ 32 14 2 (by decide), field_setWidth _ 32 0 14 (by decide), cmd1Word_c, cmd1Word_a]⟩

theorem cmd2 (x : BitVec 8) (cc : BitVec 4) (y : BitVec 2) (aa : BitVec 2) : Statement (.cmd2 x cc y aa) :=
  fun _ => ⟨_, rfl, fun tl => by
    refine (reads_exact (Codec.unit_exact) _ _ () trivial tl).trans ?_
    simp only [rowWord]
    rw [field_setWidth _ 32 8 8 (by decide), field_setWidth _ 32 4 4 (by decide), field_setWidth _ 32 2 2 (by decide),
      field_setWidth _ 32 0 2 (by decide), cmd2Word_x, cmd2Word_cc, cmd2Word_y, cmd2Word_aa]⟩

theorem command (w : CmdWord) : Statement (.command w) :=
  fun _ => ⟨_, rfl, fun tl => by
    refine (reads_exact (Codec.unit_exact) _ _ () trivial tl).trans ?_
    simp only [rowWord]
    rw [cmdFields_cmdWord w]⟩

theorem modeVramRd (w : CmdWord) : Statement (.modeVramRd w) :=
  fun _ => ⟨_, rfl, fun tl => by
    refine (reads_exact (Codec.unit_exact) _ _ () trivial tl).trans ?_
    simp only [rowWord]
    rw [cmdFields_cmdWord w]⟩

theorem modeVramWr (w : CmdWord) : Statement (.modeVramWr w) :=
  fun _ => ⟨_, rfl, fun tl => by
    refine (reads_exact (Codec.unit_exact) _ _ () trivial tl).trans ?_
    simp only [rowWord]
    rw [cmdFields_cmdWord w]⟩

theorem modeCramWr (w : CmdWord) : Statement (.modeCramWr w) :=
  fun _ => ⟨_, rfl, fun tl => by
    refine (reads_exact (Codec.unit_exact) _ _ () trivial tl).trans ?_
    simp only [rowWord]
    rw [cmdFields_cmdWord w]⟩

theorem modeVsramRd (w : CmdWord) : Statement (.modeVsramRd w) :=
  fun _ => ⟨_, rfl, fun tl => by
    refine (reads_exact (Codec.unit_exact) _ _ () trivial tl).trans ?_
    simp only [rowWord]
    rw [cmdFields_cmdWord w]⟩

theorem modeVsramWr (w : CmdWord) : Statement (.modeVsramWr w) :=
  fun _ => ⟨_, rfl, fun tl => by
    refine (reads_exact (Codec.unit_exact) _ _ () trivial tl).trans ?_
    simp only [rowWord]
    rw [cmdFields_cmdWord w]⟩

theorem modeCramRd (w : CmdWord) : Statement (.modeCramRd w) :=
  fun _ => ⟨_, rfl, fun tl => by
    refine (reads_exact (Codec.unit_exact) _ _ () trivial tl).trans ?_
    simp only [rowWord]
    rw [cmdFields_cmdWord w]⟩

theorem modeInvalid (w : CmdWord) : Statement (.modeInvalid w) :=
  fun _ => ⟨_, rfl, fun tl => by
    refine (reads_exact (Codec.unit_exact) _ _ () trivial tl).trans ?_
    simp only [rowWord]
    rw [cmdFields_cmdWord w]⟩

theorem dmaflag (w : CmdWord) : Statement (.dmaflag w) :=
  fun _ => ⟨_, rfl, fun tl => by
    refine (reads_exact (Codec.unit_exact) _ _ () trivial tl).trans ?_
    simp only [rowWord]
    rw [cmdFields_cmdWord w]⟩

theorem dmaBus (hi : BitVec 7) : Statement (.dmaBus hi) :=
  fun _ => ⟨_, rfl, fun tl => by
    refine (reads_exact (Codec.unit_exact) _ _ () trivial tl).trans ?_
    simp only [rowWord]
    rw [field_of_setWidth _ 32 (by decide)]⟩

theorem dmaFill (z : BitVec 6) (b : Byte) : Statement (.dmaFill z b) :=
  fun _ => ⟨_, rfl, fun tl => by
    refine (reads_exact (Codec.byte_exact) _ _ _ trivial tl).trans ?_
    simp only [rowWord]
    rw [field_setWidth _ 32 0 6 (by decide), field_append_lo _ _ _ _ (by decide), field_self]⟩

theorem dmaCopy (z : BitVec 6) : Statement (.dmaCopy z) :=
  fun _ => ⟨_, rfl, fun tl => by
    refine (reads_exact (Codec.unit_exact) _ _ () trivial tl).trans ?_
    simp only [rowWord]
    rw [field_setWidth _ 32 0 6 (by decide), field_append_lo _ _ _ _ (by decide), field_self]⟩

theorem dmastart : Statement (.dmastart) :=
  fun _ => ⟨_, rfl, fun tl => reads_exact (Codec.unit_exact) _ _ () trivial tl⟩

theorem vdataWr (d : Half) : Statement (.vdataWr d) :=
  fun _ => ⟨_, rfl, fun tl => by
    refine (reads_exact (Codec.unit_exact) _ _ () trivial tl).trans ?_
    simp only [rowWord]
    rw [field_of_setWidth _ 32 (by decide)]⟩

theorem vdataRd : Statement (.vdataRd) :=
  fun _ => ⟨_, rfl, fun tl => reads_exact (Codec.unit_exact) _ _ () trivial tl⟩

theorem vstat : Statement (.vstat) :=
  fun _ => ⟨_, rfl, fun tl => reads_exact (Codec.unit_exact) _ _ () trivial tl⟩

theorem ardZram (a : AuxAddr) (t : Nat) : Statement (.ardZram a t) :=
  fun h => ⟨_, rfl, fun tl => by
    refine (reads_exact (Codec.nat_exact) _ _ _ (operandsWf_of_wf h) tl).trans ?_
    simp only [rowWord]
    rw [field_of_setWidth _ 32 (by decide)]⟩

theorem awrZram (a : AuxAddr) (v : Byte) (t : Nat) : Statement (.awrZram a v t) :=
  fun h => ⟨_, rfl, fun tl => by
    refine (reads_exact ((Codec.pair_exact Codec.byte_exact Codec.nat_exact)) _ _ (v, t) ⟨trivial, operandsWf_of_wf h⟩ tl).trans ?_
    simp only [rowWord]
    rw [field_of_setWidth _ 32 (by decide)]⟩

theorem ardFm (a : AuxAddr) (t : Nat) : Statement (.ardFm a t) :=
  fun h => ⟨_, rfl, fun tl => by
    refine (reads_exact (Codec.nat_exact) _ _ _ (operandsWf_of_wf h) tl).trans ?_
    simp only [rowWord]
    rw [field_of_setWidth _ 32 (by decide)]⟩

theorem awrFm (a : AuxAddr) (v : Byte) (t : Nat) : Statement (.awrFm a v t) :=
  fun h => ⟨_, rfl, fun tl => by
    refine (reads_exact ((Codec.pair_exact Codec.byte_exact Codec.nat_exact)) _ _ (v, t) ⟨trivial, operandsWf_of_wf h⟩ tl).trans ?_
    simp only [rowWord]
    rw [field_of_setWidth _ 32 (by decide)]⟩

theorem ardBanksel (a : AuxAddr) (t : Nat) : Statement (.ardBanksel a t) :=
  fun h => ⟨_, rfl, fun tl => by
    refine (reads_exact (Codec.nat_exact) _ _ _ (operandsWf_of_wf h) tl).trans ?_
    simp only [rowWord]
    rw [field_of_setWidth _ 32 (by decide)]⟩

theorem awrBanksel (a : AuxAddr) (v : Byte) (t : Nat) : Statement (.awrBanksel a v t) :=
  fun h => ⟨_, rfl, fun tl => by
    refine (reads_exact ((Codec.pair_exact Codec.byte_exact Codec.nat_exact)) _ _ (v, t) ⟨trivial, operandsWf_of_wf h⟩ tl).trans ?_
    simp only [rowWord]
    rw [field_of_setWidth _ 32 (by decide)]⟩

theorem ardVdpwin (a : AuxAddr) (t : Nat) : Statement (.ardVdpwin a t) :=
  fun h => ⟨_, rfl, fun tl => by
    refine (reads_exact (Codec.nat_exact) _ _ _ (operandsWf_of_wf h) tl).trans ?_
    simp only [rowWord]
    rw [field_of_setWidth _ 32 (by decide)]⟩

theorem awrVdpwin (a : AuxAddr) (v : Byte) (t : Nat) : Statement (.awrVdpwin a v t) :=
  fun h => ⟨_, rfl, fun tl => by
    refine (reads_exact ((Codec.pair_exact Codec.byte_exact Codec.nat_exact)) _ _ (v, t) ⟨trivial, operandsWf_of_wf h⟩ tl).trans ?_
    simp only [rowWord]
    rw [field_of_setWidth _ 32 (by decide)]⟩

theorem ardBankwin (a : AuxAddr) (t : Nat) : Statement (.ardBankwin a t) :=
  fun h => ⟨_, rfl, fun tl => by
    refine (reads_exact (Codec.nat_exact) _ _ _ (operandsWf_of_wf h) tl).trans ?_
    simp only [rowWord]
    rw [field_of_setWidth _ 32 (by decide)]⟩

theorem awrBankwin (a : AuxAddr) (v : Byte) (t : Nat) : Statement (.awrBankwin a v t) :=
  fun h => ⟨_, rfl, fun tl => by
    refine (reads_exact ((Codec.pair_exact Codec.byte_exact Codec.nat_exact)) _ _ (v, t) ⟨trivial, operandsWf_of_wf h⟩ tl).trans ?_
    simp only [rowWord]
    rw [field_of_setWidth _ 32 (by decide)]⟩

theorem ardNone (a : AuxAddr) (t : Nat) : Statement (.ardNone a t) :=
  fun h => ⟨_, rfl, fun tl => by
    refine (reads_exact (Codec.nat_exact) _ _ _ (operandsWf_of_wf h) tl).trans ?_
    simp only [rowWord]
    rw [field_of_setWidth _ 32 (by decide)]⟩

theorem awrNone (a : AuxAddr) (v : Byte) (t : Nat) : Statement (.awrNone a v t) :=
  fun h => ⟨_, rfl, fun tl => by
    refine (reads_exact ((Codec.pair_exact Codec.byte_exact Codec.nat_exact)) _ _ (v, t) ⟨trivial, operandsWf_of_wf h⟩ tl).trans ?_
    simp only [rowWord]
    rw [field_of_setWidth _ 32 (by decide)]⟩

theorem execute (d : Device) (budget : Nat) : Statement (.execute d budget) :=
  fun h => ⟨_, rfl, fun tl => reads_exact ((Codec.pair_exact Codec.device_exact Codec.nat_exact)) _ _ (d, budget) ⟨trivial, (Bool.and_eq_true _ _ ▸ operandsWf_of_wf h).2⟩ tl⟩

theorem ackV : Statement (.ackV) :=
  fun _ => ⟨_, rfl, fun tl => reads_exact (Codec.unit_exact) _ _ () trivial tl⟩

theorem ackH : Statement (.ackH) :=
  fun _ => ⟨_, rfl, fun tl => reads_exact (Codec.unit_exact) _ _ () trivial tl⟩

theorem ackSpurious (level : BitVec 3) : Statement (.ackSpurious level) :=
  fun _ => ⟨_, rfl, fun tl => by
    refine (reads_exact (Codec.unit_exact) _ _ () trivial tl).trans ?_
    simp only [rowWord]
    rw [field_of_setWidth _ 32 (by decide)]⟩

theorem runframe : Statement (.runframe) :=
  fun _ => ⟨_, rfl, fun tl => reads_exact (Codec.unit_exact) _ _ () trivial tl⟩

theorem framestart : Statement (.framestart) :=
  fun _ => ⟨_, rfl, fun tl => reads_exact (Codec.unit_exact) _ _ () trivial tl⟩

theorem linestep : Statement (.linestep) :=
  fun _ => ⟨_, rfl, fun tl => reads_exact (Codec.unit_exact) _ _ () trivial tl⟩

theorem padtimeout : Statement (.padtimeout) :=
  fun _ => ⟨_, rfl, fun tl => reads_exact (Codec.unit_exact) _ _ () trivial tl⟩

theorem padsample : Statement (.padsample) :=
  fun _ => ⟨_, rfl, fun tl => reads_exact (Codec.unit_exact) _ _ () trivial tl⟩

theorem timerstep : Statement (.timerstep) :=
  fun _ => ⟨_, rfl, fun tl => reads_exact (Codec.unit_exact) _ _ () trivial tl⟩

theorem hstep : Statement (.hstep) :=
  fun _ => ⟨_, rfl, fun tl => reads_exact (Codec.unit_exact) _ _ () trivial tl⟩

theorem slices : Statement (.slices) :=
  fun _ => ⟨_, rfl, fun tl => reads_exact (Codec.unit_exact) _ _ () trivial tl⟩

theorem snapshot : Statement (.snapshot) :=
  fun _ => ⟨_, rfl, fun tl => reads_exact (Codec.unit_exact) _ _ () trivial tl⟩

theorem vblankboundary : Statement (.vblankboundary) :=
  fun _ => ⟨_, rfl, fun tl => reads_exact (Codec.unit_exact) _ _ () trivial tl⟩

theorem runto (d : Device) (target : Nat) : Statement (.runto d target) :=
  fun h => ⟨_, rfl, fun tl => reads_exact ((Codec.pair_exact Codec.device_exact Codec.nat_exact)) _ _ (d, target) ⟨trivial, operandsWf_of_wf h⟩ tl⟩

theorem frameend : Statement (.frameend) :=
  fun _ => ⟨_, rfl, fun tl => reads_exact (Codec.unit_exact) _ _ () trivial tl⟩

theorem drawline (n : Int) : Statement (.drawline n) :=
  fun h => ⟨_, rfl, fun tl => reads_exact (Codec.int_exact) _ _ _ (int_of_wf h) tl⟩

theorem timertick : Statement (.timertick) :=
  fun _ => ⟨_, rfl, fun tl => reads_exact (Codec.unit_exact) _ _ () trivial tl⟩

theorem finalize : Statement (.finalize) :=
  fun _ => ⟨_, rfl, fun tl => reads_exact (Codec.unit_exact) _ _ () trivial tl⟩

theorem soundframestart : Statement (.soundframestart) :=
  fun _ => ⟨_, rfl, fun tl => reads_exact (Codec.unit_exact) _ _ () trivial tl⟩

theorem timerrebase (frameUs : Nat) : Statement (.timerrebase frameUs) :=
  fun h => ⟨_, rfl, fun tl => reads_exact (Codec.nat_exact) _ _ _ (operandsWf_of_wf h) tl⟩

theorem hostLoad (image : Image) : Statement (.hostLoad image) :=
  fun h => ⟨_, rfl, fun tl => reads_exact (image_exact) _ _ _ (image_of_wf h) tl⟩

theorem hostUnplug : Statement (.hostUnplug) :=
  fun _ => ⟨_, rfl, fun tl => reads_exact (Codec.unit_exact) _ _ () trivial tl⟩

theorem hostPatch (codes : List (Addr × Half)) : Statement (.hostPatch codes) :=
  fun h => ⟨_, rfl, fun tl => reads_exact (codes_exact) _ _ _ (codes_of_wf h) tl⟩

theorem hostReset : Statement (.hostReset) :=
  fun _ => ⟨_, rfl, fun tl => reads_exact (Codec.unit_exact) _ _ () trivial tl⟩

theorem hostSetpad (w : BitVec 32) : Statement (.hostSetpad w) :=
  fun _ => ⟨_, rfl, fun tl => reads_exact (Codec.word_exact) _ _ _ trivial tl⟩

theorem hostSetmute (b : Bool) : Statement (.hostSetmute b) :=
  fun _ => ⟨_, rfl, fun tl => reads_exact (Codec.bit_exact) _ _ _ trivial tl⟩

theorem hostSetcancel (b : Bool) : Statement (.hostSetcancel b) :=
  fun _ => ⟨_, rfl, fun tl => reads_exact (Codec.bit_exact) _ _ _ trivial tl⟩

theorem hostSetpal (b : Bool) : Statement (.hostSetpal b) :=
  fun _ => ⟨_, rfl, fun tl => reads_exact (Codec.bit_exact) _ _ _ trivial tl⟩

end Sys2Proof.Laws.RowReader
end

