-- ==== Sys2Proof/Tests/Slice0.lean ====
section
/-! SUPPORT. The model's own tests: ill-formed operations, words of the spec's encodings decoded, single operations of
95_test_vectors.md (its vector is named at each test), and a witness for each statement that has hypotheses. -/

set_option Elab.async false

namespace Sys2Proof.Tests

open Sys2Proof.Machine

/-- The operation a byte string encodes, with nothing left over. -/
def dec (bs : List Byte) : Option Instr :=
  match decode bs with
  | .ok (i, []) => some i
  | _ => none

/-- The state after one operation, if it answers one. -/
def ran (i : Instr) (s : State) : Option State :=
  match exec i s with
  | .next t => some t
  | _ => none

/-- The response of one operation. -/
def resp (i : Instr) (s : State) : Option Resp := (ran i s).map (·.resp)

/-- Why an operation is refused. -/
def refusal (i : Instr) (s : State) : Option Refusal :=
  match exec i s with
  | .refused r => some r
  | _ => none

/-- The state before every vector (95_test_vectors.md, opening). -/
def s0 : State := State.reset

/-- MAIN at stamp 0, AUXWIN at stamp 0, a DMA. -/
def m0 : Ctx := ⟨.main, 0⟩
def w0 : Ctx := ⟨.auxwin, 0⟩
def d0 : Ctx := ⟨.dma, 0⟩

/-- Changes of one group of a state. -/
def onBus (f : Bus → Bus) (s : State) : State := { s with bus := f s.bus }
def onVdp (f : Vdp → Vdp) (s : State) : State := { s with vdp := f s.vdp }
def onSnd (f : Snd → Snd) (s : State) : State := { s with snd := f s.snd }
def onSched (f : Sched → Sched) (s : State) : State := { s with sched := f s.sched }

/-- A mailbox location the host leaves at a value (log 7), and a state whose host writes nothing. -/
def stays {α : Type} (v : α) : Cell α := ⟨v, [], true, 0⟩
def quiet (s : State) : State :=
  { s with host := ⟨stays s.host.pad.value, stays s.host.mute.value, stays s.host.cancel.value, stays s.host.pal.value⟩ }

/-! ### Ill-formed operations: a row's pattern, a row's condition, an operand's range. -/

theorem test_wf_region_pattern : (Instr.rd8Ram m0 0xC00000).wf = false ∧ (Instr.wr8Zram m0 0xA04000 1).wf = false ∧
    (Instr.rd8Fm m0 0xA06000).wf = false ∧ (Instr.wr8Io m0 0xA10020 1).wf = false ∧
    (Instr.rd8Rom m0 0x400000).wf = false ∧ (Instr.wr8Sramctl m0 0xA130F0 1).wf = false := by decide +kernel

theorem test_wf_port_pattern : (Instr.rd16Vdpdata m0 0xC00004).wf = false ∧ (Instr.wr16Vdpctrl m0 0xC00008 1).wf = false ∧
    (Instr.wr8Psg m0 0xC00010 1).wf = false ∧ (Instr.wr8FmData1 m0 0xA04002 1).wf = false ∧
    (Instr.ioEven 0xA10001 .read).wf = false := by decide +kernel

theorem test_wf_vdpnone : (Instr.rd8Vdpnone m0 0xC00007).wf = false ∧ (Instr.rd8Vdpnone m0 0xC00011).wf = false ∧
    (Instr.rd8Vdpnone m0 0xC00008).wf = true ∧ (Instr.wr8Vdpnone m0 0xC0001F 0).wf = true := by decide +kernel

theorem test_wf_fmreg_other : (Instr.fmregOther m0 0 0x27 1).wf = false ∧ (Instr.fmregOther m0 0 0x2B 1).wf = false ∧
    (Instr.fmregOther m0 1 0x27 1).wf = true ∧ (Instr.fmregOther m0 0 0x28 1).wf = true := by decide +kernel

theorem test_wf_cmd1 : (Instr.cmd1 2 0x123).wf = false ∧ (Instr.cmd1 3 0x123).wf = true := by decide +kernel

theorem test_wf_mode : (Instr.modeVramWr ⟨0, 0, 0, 0, 0, 0⟩).wf = false ∧ (Instr.modeCramRd ⟨0, 0, 0, 1, 0, 0⟩).wf = false ∧
    (Instr.modeInvalid ⟨3, 0, 0, 0, 0, 0⟩).wf = false ∧ (Instr.modeInvalid ⟨2, 0, 0, 0, 0, 0⟩).wf = true ∧
    (Instr.dmaflag ⟨1, 0, 0, 7, 0, 0⟩).wf = false := by decide +kernel

theorem test_wf_aux_pattern : (Instr.ardZram 0x4000 0).wf = false ∧ (Instr.awrFm 0x6000 1 0).wf = false ∧
    (Instr.ardBanksel 0x6100 0).wf = false ∧ (Instr.ardVdpwin 0x7F20 0).wf = false ∧
    (Instr.awrBankwin 0x7FFF 1 0).wf = false := by decide +kernel

theorem test_wf_aux_none : (Instr.ardNone 0x7F00 0).wf = false ∧ (Instr.ardNone 0x60FF 0).wf = false ∧
    (Instr.ardNone 0x6100 0).wf = true ∧ (Instr.awrNone 0x7FFF 0 0).wf = true := by decide +kernel

theorem test_wf_dma_writes_nothing : (Instr.wr8 d0 0xFF0000 1).wf = false ∧ (Instr.wr16Vdpdata d0 0xC00000 1).wf = false ∧
    (Instr.fmregMode d0 1).wf = false ∧ (Instr.rd8 d0 0xFF0000).wf = true := by decide +kernel

theorem test_wf_naturals : (Instr.rd8 ⟨.main, 0x100000000⟩ 0).wf = false ∧ (Instr.runto .main 0x100000000).wf = false ∧
    (Instr.timerrebase 0x100000000).wf = false ∧ (Instr.drawline 0x80000000).wf = false ∧
    (Instr.drawline (-0x80000001)).wf = false ∧ (Instr.drawline (-1)).wf = true := by decide +kernel

theorem test_wf_budget_and_level : (Instr.execute .main 0).wf = false ∧ (Instr.execute .main 1).wf = true ∧
    (Instr.ackSpurious 0).wf = false ∧ (Instr.ackSpurious 5).wf = true := by decide +kernel

theorem test_wf_image : (Instr.hostLoad ⟨4, [(4, 1)]⟩).wf = false ∧ (Instr.hostLoad ⟨4, [(1, 0)]⟩).wf = false ∧
    (Instr.hostLoad ⟨4, [(2, 1), (1, 1)]⟩).wf = false ∧ (Instr.hostLoad ⟨0x100000000, []⟩).wf = false ∧
    (Instr.hostLoad ⟨4, [(1, 1), (3, 2)]⟩).wf = true := by decide +kernel

theorem test_cfg_wf : Cfg.test.wf = true ∧ { Cfg.test with ramSize := 3 }.wf = false ∧
    { Cfg.test with dacBufLen := 0 }.wf = false ∧ { Cfg.test with cartEnd := 0xBFFFFF }.wf = false ∧
    { Cfg.test with vblankStart := ⟨1, 6⟩ }.wf = false ∧ { Cfg.test with hbl := ⟨⟨101, 20⟩, ⟨10, 10⟩⟩ }.wf = false ∧
    { Cfg.test with bankWin := ⟨0xA05F00, 0xFFFF00⟩ }.wf = false := by decide +kernel

/-- R18 admits a window without an address, three pads, memories without an entry and any smallest image. -/
theorem test_cfg_wf_admits : { Cfg.test with bankWin := ⟨0xA05F0F, 0xFFFF00⟩ }.wf = true ∧
    { Cfg.test with nPads := 3, cramN := 0, vramSize := 0, minImageSize := 0 }.wf = true ∧
    inWin ⟨0xA05F0F, 0xFFFF00⟩ 0xA05F0F = false := by decide +kernel

theorem test_cfg_ref_wf :
    (Cfg.ref ⟨⟨⟨100, 100⟩, ⟨50, 50⟩⟩, 100, 30, ⟨735, 882⟩, [0x4E, 0x71, 0x60, 0xFE]⟩).wf = true := by decide +kernel

/-! ### Decoding: every row, words written from the encodings of 30_encoding.md, between the row's number and the
operands of the transport (log 3). -/

theorem test_decode_bus : dec [0, 0, 0x50, 0, 0, 0, 0, 0, 0, 7] = some (.rd8 ⟨.main, 7⟩ 0x500000) ∧
    dec [1, 1, 0xFF, 0xFF, 0xFE, 2, 0, 0, 0, 0] = some (.rd16 d0 0xFFFFFE) ∧
    dec [2, 2, 0xFF, 0, 0, 0xAB, 1, 0, 0, 1, 0] = some (.wr8 ⟨.auxwin, 256⟩ 0xFF0000 0xAB) ∧
    dec [3, 3, 0xC0, 0, 4, 0x8F, 0x02, 0, 0, 0, 0, 0] = some (.wr16 m0 0xC00004 0x8F02) ∧
    dec [0, 1, 0x50, 0, 0, 0, 0, 0, 0, 7] = none := by decide +kernel

theorem test_decode_region_reads : dec [4, 0x20, 0, 0, 0, 0, 0, 0, 0] = some (.rd8Sram m0 0x200000) ∧
    dec [6, 0, 2, 1, 0, 0, 0, 0, 0] = some (.rd8Rom m0 0x000201) ∧
    dec [8, 0x3F, 0xFF, 0xFF, 0, 0, 0, 0, 0] = some (.rd8Cartopen m0 0x3FFFFF) ∧
    dec [10, 0xA0, 0x3F, 0xFF, 0, 0, 0, 0, 0] = some (.rd8Zram m0 0xA03FFF) ∧
    dec [12, 0xA0, 0x5F, 0xFF, 0, 0, 0, 0, 0] = some (.rd8Fm m0 0xA05FFF) ∧
    dec [14, 0xA0, 0x60, 0xFF, 0, 0, 0, 0, 0] = some (.rd8Banksel m0 0xA060FF) ∧
    dec [16, 0xA1, 0x00, 0x1F, 0, 0, 0, 0, 0] = some (.rd8Io m0 0xA1001F) ∧
    dec [18, 0xA1, 0x30, 0xF1, 0, 0, 0, 0, 0] = some (.rd8Sramctl m0 0xA130F1) ∧
    dec [20, 0xC0, 0x00, 0x1F, 0, 0, 0, 0, 0] = some (.rd8Vdp m0 0xC0001F) ∧
    dec [22, 0xE1, 0x23, 0x45, 0, 0, 0, 0, 0] = some (.rd8Ram m0 0xE12345) ∧
    dec [24, 0x50, 0, 0, 0, 0, 0, 0, 0] = some (.rd8Open m0 0x500000) := by decide +kernel

theorem test_decode_region_writes : dec [5, 0x20, 0, 0, 9, 0, 0, 0, 0, 0] = some (.wr8Sram m0 0x200000 9) ∧
    dec [7, 0, 2, 1, 9, 0, 0, 0, 0, 0] = some (.wr8Rom m0 0x000201 9) ∧
    dec [9, 0x3F, 0xFF, 0xFF, 9, 0, 0, 0, 0, 0] = some (.wr8Cartopen m0 0x3FFFFF 9) ∧
    dec [11, 0xA0, 0x3F, 0xFF, 9, 0, 0, 0, 0, 0] = some (.wr8Zram m0 0xA03FFF 9) ∧
    dec [13, 0xA0, 0x5F, 0xFF, 9, 0, 0, 0, 0, 0] = some (.wr8Fm m0 0xA05FFF 9) ∧
    dec [15, 0xA0, 0x60, 0xFF, 9, 0, 0, 0, 0, 0] = some (.wr8Banksel m0 0xA060FF 9) ∧
    dec [17, 0xA1, 0x00, 0x1F, 9, 0, 0, 0, 0, 0] = some (.wr8Io m0 0xA1001F 9) ∧
    dec [19, 0xA1, 0x30, 0xF1, 9, 0, 0, 0, 0, 0] = some (.wr8Sramctl m0 0xA130F1 9) ∧
    dec [21, 0xC0, 0x00, 0x1F, 9, 0, 0, 0, 0, 0] = some (.wr8Vdp m0 0xC0001F 9) ∧
    dec [23, 0xE1, 0x23, 0x45, 9, 0, 0, 0, 0, 0] = some (.wr8Ram m0 0xE12345 9) ∧
    dec [25, 0x50, 0, 0, 9, 0, 0, 0, 0, 0] = some (.wr8Open m0 0x500000 9) := by decide +kernel

theorem test_decode_vdp_ports : dec [26, 0xC0, 0, 2, 0, 0, 0, 0, 0] = some (.rd16Vdpdata m0 0xC00002) ∧
    dec [27, 0xC0, 0, 0, 0x0E, 0xEE, 0, 0, 0, 0, 0] = some (.wr16Vdpdata m0 0xC00000 0x0EEE) ∧
    dec [28, 0xC0, 0, 6, 0, 0, 0, 0, 0] = some (.rd16Vdpctrl m0 0xC00006) ∧
    dec [29, 0xC0, 0, 4, 0x8F, 2, 0, 0, 0, 0, 0] = some (.wr16Vdpctrl m0 0xC00004 0x8F02) ∧
    dec [30, 0xC0, 0, 3, 0, 0, 0, 0, 0] = some (.rd8Vdpdata m0 0xC00003) ∧
    dec [31, 0xC0, 0, 1, 9, 0, 0, 0, 0, 0] = some (.wr8Vdpdata m0 0xC00001 9) ∧
    dec [32, 0xC0, 0, 7, 0, 0, 0, 0, 0] = some (.rd8Vdpctrl m0 0xC00007) ∧
    dec [33, 0xC0, 0, 5, 9, 0, 0, 0, 0, 0] = some (.wr8Vdpctrl m0 0xC00005 9) ∧
    dec [34, 0xC0, 0, 0x11, 0, 0, 0, 0, 0] = some (.rd8Psg m0 0xC00011) ∧
    dec [35, 0xC0, 0, 0x11, 0x9F, 0, 0, 0, 0, 0] = some (.wr8Psg m0 0xC00011 0x9F) ∧
    dec [36, 0xC0, 0, 0x10, 0, 0, 0, 0, 0] = some (.rd8Vdpnone m0 0xC00010) ∧
    dec [37, 0xC0, 0, 0x09, 9, 0, 0, 0, 0, 0] = some (.wr8Vdpnone m0 0xC00009 9) := by decide +kernel

theorem test_decode_fm : dec [38, 0xA0, 0x40, 0, 9, 0, 0, 0, 0, 0] = some (.wr8FmAddr0 m0 0xA04000 9) ∧
    dec [39, 0xA0, 0x40, 1, 9, 0, 0, 0, 0, 0] = some (.wr8FmData0 m0 0xA04001 9) ∧
    dec [40, 0xA0, 0x40, 2, 9, 0, 0, 0, 0, 0] = some (.wr8FmAddr1 m0 0xA04002 9) ∧
    dec [41, 0xA0, 0x5F, 0xFF, 9, 0, 0, 0, 0, 0] = some (.wr8FmData1 m0 0xA05FFF 9) ∧
    dec [42, 0xA0, 0x40, 3, 0, 0, 0, 0, 0] = some (.rd8FmAny m0 0xA04003) ∧
    dec [43, 0, 0x27, 1, 0, 0, 0, 0, 0] = some (.fmregMode m0 1) ∧
    dec [44, 0, 0x2A, 1, 0, 0, 0, 0, 0] = some (.fmregDacdata m0 1) ∧
    dec [45, 0, 0x2B, 1, 0, 0, 0, 0, 0] = some (.fmregDacen m0 1) ∧
    dec [46, 0, 0x24, 1, 0, 0, 0, 0, 0] = some (.fmregTaHi m0 1) ∧
    dec [47, 0, 0x25, 1, 0, 0, 0, 0, 0] = some (.fmregTaLo m0 1) ∧
    dec [48, 0, 0x26, 1, 0, 0, 0, 0, 0] = some (.fmregTb m0 1) ∧
    dec [49, 1, 0x27, 1, 0, 0, 0, 0, 0] = some (.fmregOther m0 1 0x27 1) ∧
    dec [43, 1, 0x27, 1, 0, 0, 0, 0, 0] = none := by decide +kernel

theorem test_decode_values : dec [50, 0x31, 0, 0, 0, 0, 5] = some (.modeValue ⟨.main, 5⟩ 0x31) ∧
    dec [51, 0x80, 0, 0, 0, 0, 0] = some (.dacenValue m0 0x80) ∧
    dec [52, 0xC0, 1, 0, 0, 0, 0] = some (.dacdataValue w0 0xC0) ∧
    dec [53, 0x9F, 0, 0, 0, 0, 0] = some (.psgValue m0 0x9F) ∧
    dec [71, 3] = some (.sramctlValue 3) ∧ dec [72, 1] = some (.bankselValue 1) := by decide +kernel

theorem test_decode_io : dec [54, 0xA1, 0, 0x01, 0, 0] = some (.ioVersion .read) ∧
    dec [55, 0xA1, 0, 0x03, 1, 0x40] = some (.ioData0 (.write 0x40)) ∧
    dec [56, 0xA1, 0, 0x05, 0, 0] = some (.ioData1 .read) ∧ dec [57, 0xA1, 0, 0x07, 0, 0] = some (.ioData2 .read) ∧
    dec [58, 0xA1, 0, 0x09, 0, 0] = some (.ioCtrl0 .read) ∧ dec [59, 0xA1, 0, 0x0B, 0, 0] = some (.ioCtrl1 .read) ∧
    dec [60, 0xA1, 0, 0x0D, 0, 0] = some (.ioCtrl2 .read) ∧ dec [61, 0xA1, 0, 0x0F, 0, 0] = some (.ioSer0 .read) ∧
    dec [62, 0xA1, 0, 0x11, 0, 0] = some (.ioSer1 .read) ∧ dec [63, 0xA1, 0, 0x13, 0, 0] = some (.ioSer2 .read) ∧
    dec [64, 0xA1, 0, 0x15, 0, 0] = some (.ioSer3 .read) ∧ dec [65, 0xA1, 0, 0x17, 0, 0] = some (.ioSer4 .read) ∧
    dec [66, 0xA1, 0, 0x19, 0, 0] = some (.ioSer5 .read) ∧ dec [67, 0xA1, 0, 0x1B, 0, 0] = some (.ioSer6 .read) ∧
    dec [68, 0xA1, 0, 0x1D, 0, 0] = some (.ioSer7 .read) ∧ dec [69, 0xA1, 0, 0x1F, 0, 0] = some (.ioSer8 .read) ∧
    dec [70, 0xA1, 0, 0x1E, 0, 0] = some (.ioEven 0xA1001E .read) ∧ dec [70, 0xA1, 0, 0x1F, 0, 0] = none := by
  decide +kernel

theorem test_decode_control_words : dec [73, 0b10001111, 0b00000010] = some (.regset 0 15 2) ∧
    dec [73, 0b10100001, 0x44] = some (.regset 1 1 0x44) ∧ dec [74, 0x41, 0x23] = some (.cmd1 1 0x123) ∧
    dec [75, 0xFF, 0b00001111] = some (.cmd2 0xFF 0 3 3) ∧ dec [75, 0, 0b11010010] = some (.cmd2 0 0xD 0 2) ∧
    dec [74, 0x80, 0] = none ∧ dec [73, 0x40, 0] = none := by decide +kernel

theorem test_decode_commands : dec [76, 0x41, 0x23, 0xFF, 0x8F] = some (.command ⟨1, 0x123, 0xFF, 8, 3, 3⟩) ∧
    dec [77, 0, 0x10, 0, 0] = some (.modeVramRd ⟨0, 0x10, 0, 0, 0, 0⟩) ∧
    dec [78, 0x40, 0, 0, 3] = some (.modeVramWr ⟨1, 0, 0, 0, 0, 3⟩) ∧
    dec [79, 0xC0, 0x7E, 0, 0] = some (.modeCramWr ⟨3, 0x7E, 0, 0, 0, 0⟩) ∧
    dec [80, 0, 0x4E, 0, 0x10] = some (.modeVsramRd ⟨0, 0x4E, 0, 1, 0, 0⟩) ∧
    dec [81, 0x40, 0x4E, 0, 0x10] = some (.modeVsramWr ⟨1, 0x4E, 0, 1, 0, 0⟩) ∧
    dec [82, 0, 2, 0, 0x20] = some (.modeCramRd ⟨0, 2, 0, 2, 0, 0⟩) ∧
    dec [83, 0xC0, 0, 0, 0x10] = some (.modeInvalid ⟨3, 0, 0, 1, 0, 0⟩) ∧
    dec [84, 0x41, 0, 0, 0x80] = some (.dmaflag ⟨1, 0x100, 0, 8, 0, 0⟩) ∧ dec [84, 0x41, 0, 0, 0x70] = none ∧
    dec [83, 0xC0, 0, 0, 0] = none := by decide +kernel

theorem test_decode_dma_and_data : dec [85, 0x7F] = some (.dmaBus 0x7F) ∧ dec [86, 0x80, 0xAB] = some (.dmaFill 0 0xAB) ∧
    dec [87, 0xC1] = some (.dmaCopy 1) ∧ dec [88] = some .dmastart ∧ dec [89, 0x0E, 0xEE] = some (.vdataWr 0x0EEE) ∧
    dec [90] = some .vdataRd ∧ dec [91, 0x02, 0x00] = some .vstat ∧ dec [85, 0x80] = none ∧ dec [86, 0xC0, 0] = none ∧
    dec [87, 0x80] = none ∧ dec [91, 0, 0] = none := by decide +kernel

theorem test_decode_aux : dec [92, 0x20, 0x10, 0, 0, 0, 0] = some (.ardZram 0x2010 0) ∧
    dec [93, 0x3F, 0xFF, 9, 0, 0, 0, 2] = some (.awrZram 0x3FFF 9 2) ∧
    dec [94, 0x40, 0, 0, 0, 0, 0] = some (.ardFm 0x4000 0) ∧ dec [95, 0x5F, 0xFF, 9, 0, 0, 0, 0] = some (.awrFm 0x5FFF 9 0) ∧
    dec [96, 0x60, 0, 0, 0, 0, 0] = some (.ardBanksel 0x6000 0) ∧
    dec [97, 0x60, 0xFF, 1, 0, 0, 0, 0] = some (.awrBanksel 0x60FF 1 0) ∧
    dec [98, 0x7F, 0x1F, 0, 0, 0, 0] = some (.ardVdpwin 0x7F1F 0) ∧
    dec [99, 0x7F, 0x11, 9, 0, 0, 0, 0] = some (.awrVdpwin 0x7F11 9 0) ∧
    dec [100, 0x82, 0, 0, 0, 0, 0] = some (.ardBankwin 0x8200 0) ∧
    dec [101, 0xFF, 0xFF, 9, 0, 0, 0, 0] = some (.awrBankwin 0xFFFF 9 0) ∧
    dec [102, 0x61, 0, 0, 0, 0, 0] = some (.ardNone 0x6100 0) ∧
    dec [103, 0x7F, 0xFF, 9, 0, 0, 0, 0] = some (.awrNone 0x7FFF 9 0) := by decide +kernel

theorem test_decode_engine_and_frame : dec [104, 0, 0, 0, 0, 20] = some (.execute .main 20) ∧ dec [105, 6] = some .ackV ∧
    dec [106, 4] = some .ackH ∧ dec [107, 5] = some (.ackSpurious 5) ∧ dec [108] = some .runframe ∧
    dec [109] = some .framestart ∧ dec [110] = some .linestep ∧ dec [111] = some .padtimeout ∧
    dec [112] = some .padsample ∧ dec [113] = some .timerstep ∧ dec [114] = some .hstep ∧ dec [115] = some .slices ∧
    dec [116] = some .snapshot ∧ dec [117] = some .vblankboundary ∧
    dec [118, 1, 0, 0, 0, 50] = some (.runto .aux 50) ∧ dec [119] = some .frameend ∧
    dec [120, 0xFF, 0xFF, 0xFF, 0xFF] = some (.drawline (-1)) ∧ dec [121] = some .timertick ∧
    dec [122] = some .finalize ∧ dec [123] = some .soundframestart ∧
    dec [124, 0, 0, 3, 0x20] = some (.timerrebase 800) ∧ dec [105, 4] = none ∧ dec [107, 8] = none := by decide +kernel

theorem test_decode_host : dec [125, 0, 0, 2, 0, 0, 0, 0, 1, 0, 0, 1, 0xB0, 0x52] = some (.hostLoad ⟨0x200, [(0x1B0, 0x52)]⟩) ∧
    dec [126] = some .hostUnplug ∧
    dec [127, 0, 0, 0, 1, 0, 2, 0, 0x60, 0x02] = some (.hostPatch [(0x200, 0x6002)]) ∧
    dec [128] = some .hostReset ∧ dec [129, 0xFF, 0xFF, 0xFF, 0xFE] = some (.hostSetpad 0xFFFFFFFE) ∧
    dec [130, 1] = some (.hostSetmute true) ∧ dec [131, 0] = some (.hostSetcancel false) ∧
    dec [132, 1] = some (.hostSetpal true) ∧ dec [132, 2] = none ∧ dec [133] = none ∧ dec [] = none := by decide +kernel

/-- A word alone, as the table numbers its bits: a row's word is one word of the row's width. -/
theorem test_decode_table_word : decodeTableWord 16 0x8F02 = some (.regset 0 15 2) ∧
    decodeTableWord 24 0xA10001 = some (.ioVersion .read) ∧ decodeTableWord 0 0 = some .dmastart := by decide +kernel

/-- The host places a word, and the very next step runs it. -/
theorem test_fetch_word : step (s0.withFetchWord 16 0x8F02) = exec (.regset 0 15 2) s0 := by rfl

/-! ### The bus (95_test_vectors.md B, K, I). -/

/-- Vectors B1, B2, B3, B8. -/
theorem test_open_bus_and_rom : resp (.rd8 m0 0x500000) s0 = some (.byte 0x50) ∧
    resp (.rd16 m0 0x500000) s0 = some (.word 0x5050) ∧ resp (.rd16 m0 0x3FFFFF) s0 = some (.word 0x3F40) ∧
    resp (.rd16 m0 0) s0 = some (.word 0x4E71) ∧ resp (.rd8Rom m0 2) s0 = some (.byte 0x60) ∧
    resp (.rd8Cartopen m0 4) s0 = some (.byte 0) ∧ resp (.rd8Open m0 0x400000) s0 = some (.byte 0x40) := by
  decide +kernel

/-- Vectors B4, B6: a word at the top of the space. -/
theorem test_word_wraps : resp (.rd16 m0 0xFFFFFF) (onBus (fun b => { b with ram := [(0xFFFF, 0xAA)] }) s0)
      = some (.word 0xAA4E) ∧
    ran (.wr16 m0 0xFFFFFF 0xBEEF) s0 = some (onBus (fun b => { b with ram := [(0xFFFF, 0xBE)] }) s0) := by decide +kernel

/-- Vector B5. -/
theorem test_ram_write : ran (.wr8 m0 0xFF0000 0xAB) s0 = some (onBus (fun b => { b with ram := [(0, 0xAB)] }) s0) ∧
    resp (.rd8Ram m0 0xE10000) (onBus (fun b => { b with ram := [(0, 0xAB)] }) s0) = some (.byte 0xAB) := by decide +kernel

/-- Vector B7, by row and at an odd address. -/
theorem test_ram_word : ran (.wr16 m0 0xE00001 0x1234) s0
      = some (onBus (fun b => { b with ram := [(1, 0x12), (2, 0x34)] }) s0) ∧
    ran (.wr8Ram m0 0xE00001 0) (onBus (fun b => { b with ram := [(1, 0x12)] }) s0) = some s0 := by decide +kernel

/-- Vector B9. -/
theorem test_coprocessor_ram : ran (.wr8Zram m0 0xA00010 0x77) s0
      = some (onBus (fun b => { b with zram := [(0x10, 0x77)] }) s0) ∧
    resp (.rd8Zram m0 0xA02010) (onBus (fun b => { b with zram := [(0x10, 0x77)] }) s0) = some (.byte 0x77) ∧
    resp (.ardZram 0x2010 0) (onBus (fun b => { b with zram := [(0x10, 0x77)] }) s0) = some (.byte 0x77) ∧
    ran (.awrZram 0x2010 0x77 0) s0 = some (onBus (fun b => { b with zram := [(0x10, 0x77)] }) s0) := by decide +kernel

/-- Vectors B10, B12. -/
theorem test_write_only_reads : resp (.rd8Banksel m0 0xA06000) s0 = some (.byte 0xA0) ∧
    resp (.rd8Sramctl m0 0xA130F1) s0 = some (.byte 0xA1) ∧ resp (.rd16 m0 0xA130F0) s0 = some (.word 0xA1A1) ∧
    resp (.rd8Vdpnone m0 0xC00008) s0 = some (.byte 0xC0) ∧ resp (.rd8Psg m0 0xC00011) s0 = some (.byte 0xC0) := by
  decide +kernel

/-- Vector B11. -/
theorem test_io_even_lane : resp (.ioEven 0xA10002 .read) s0 = some (.byte 0xA1) ∧
    resp (.rd16 m0 0xA10002) s0 = some (.word 0xA17F) ∧ resp (.rd8Io m0 0xA10002) s0 = some (.byte 0xA1) := by decide +kernel

/-- Vectors B13, B14, B18: word writes at the PSG port and the FM ports. -/
theorem test_sound_port_words : ran (.wr16 m0 0xC00010 0x9F9F) s0
      = some (onSnd (fun x => { x with synthLog := [.write .psg 0 0 0x9F 0] }) s0) ∧
    ran (.wr16 m0 0xA04000 0x2A90) s0
      = some (onSnd (fun x => { x with fmSel := [(0, 0x2A)], fm := [(0x2A, 0x90)] }) s0) ∧
    ran (.wr16 m0 0xA04002 0x30FF) s0
      = some (onSnd (fun x => { x with fmSel := [(1, 0x30)], fm := [(0x130, 0xFF)],
                                       synthLog := [.write .fm 1 0x30 0xFF 0] }) s0) := by decide +kernel

/-- Vectors B15, B16. -/
theorem test_dropped_writes : ran (.wr8Rom m0 0 0xFF) s0 = some s0 ∧ ran (.wr8Open m0 0x600000 0x12) s0 = some s0 ∧
    ran (.wr8Cartopen m0 0x3FFFFF 0x12) s0 = some s0 ∧ ran (.ioEven 0xA10000 (.write 0x12)) s0 = some s0 ∧
    ran (.ioVersion (.write 0x12)) s0 = some s0 ∧ ran (.wr8Io m0 0xA10001 0x12) s0 = some s0 ∧
    ran (.wr8Vdpnone m0 0xC00009 0x12) s0 = some s0 := by decide +kernel

/-- Vectors K8, K9: save RAM inside the image's span. -/
def k8 (active wp : Bool) : State :=
  onBus (fun b => { b with romLen := 0x10000, rom := [(0x8000, 0xC3)], cartPresent := true,
                           sram := ⟨true, 0x8000, 0x81FF, active, wp, []⟩ }) s0

theorem test_save_ram : resp (.rd8 m0 0x8000) (k8 false false) = some (.byte 0xC3) ∧
    resp (.rd8Sram m0 0x8000) (k8 true false) = some (.byte 0) ∧
    ran (.wr8Sram m0 0x8001 0x11) (k8 true false)
      = some (onBus (fun b => { b with sram := ⟨true, 0x8000, 0x81FF, true, false, [(1, 0x11)]⟩ }) (k8 true false)) ∧
    ran (.wr8 m0 0x8001 0x11) (k8 true true) = some (k8 true true) ∧
    ran (.wr8 m0 0x8001 0x11) (k8 false false) = some (k8 false false) := by decide +kernel

/-- Vectors K7, K9. -/
theorem test_save_ram_control : ran (.sramctlValue 3) s0 = some s0 ∧
    ran (.sramctlValue 0x01) (k8 false false) = some (k8 true false) ∧
    ran (.wr8Sramctl m0 0xA130F1 0xFE) (k8 true false) = some (k8 false true) := by decide +kernel

/-- Vectors K1, K5, K6. -/
theorem test_bank_register : ran (.bankselValue 0xFE) (onBus (fun b => { b with bank := 0x1FF }) s0)
      = some (onBus (fun b => { b with bank := 0x0FF }) s0) ∧
    ran (.wr8Banksel m0 0xA06080 1) s0 = some (onBus (fun b => { b with bank := 0x100 }) s0) ∧
    ran (.awrBanksel 0x6000 1 0) s0 = some (onBus (fun b => { b with bank := 0x100 }) s0) ∧
    resp (.ardBanksel 0x6000 0) s0 = some (.byte 0xFF) := by decide +kernel

/-- Vector K3: the ninth write of `BANK9 0x140`. -/
theorem test_bank_last_bit : ran (.bankselValue 1) (onBus (fun b => { b with bank := 0x080 }) s0)
      = some (onBus (fun b => { b with bank := 0x140 }) s0) := by decide +kernel

/-- The AUX port's windows and its empty addresses (R240, R245, R246); program P4, lines 15 and 19. -/
theorem test_aux_windows : resp (.ardBankwin 0x8000 0) s0 = some (.byte 0x4E) ∧
    resp (.ardBankwin 0x8200 0) (onBus (fun b => { b with bank := 0x040 }) s0) = some (.byte 0x20) ∧
    resp (.ardVdpwin 0x7F04 0) s0 = some (.byte 0x02) ∧ resp (.ardNone 0x6100 0) s0 = some (.byte 0xFF) ∧
    ran (.awrNone 0x7FFF 9 0) s0 = some s0 ∧ resp (.ardFm 0x4000 0) s0 = some (.byte 0) := by decide +kernel

/-- Program P4, line 18, and a write through the VDP window: the PSG, stamped in AUX cycles of two microseconds. -/
theorem test_aux_window_writes : ran (.awrBankwin 0x8000 0x77 0)
        (onBus (fun b => { b with bank := 0x040, sram := ⟨true, 0x200000, 0x2001FF, true, false, []⟩ }) s0)
      = some (onBus (fun b => { b with bank := 0x040,
                                       sram := ⟨true, 0x200000, 0x2001FF, true, false, [(0, 0x77)]⟩ }) s0) ∧
    ran (.awrVdpwin 0x7F11 0x9F 2) s0
      = some (onSnd (fun x => { x with synthLog := [.write .psg 0 0 0x9F 4] }) s0) := by decide +kernel

/-- Vectors I1, I2. -/
theorem test_io_reset_reads : resp (.ioVersion .read) s0 = some (.byte 0xA0) ∧
    resp (.ioVersion .read) (onSched (fun x => { x with std := .pal }) s0) = some (.byte 0xE0) ∧
    resp (.ioData0 .read) s0 = some (.byte 0x7F) ∧ resp (.ioData1 .read) s0 = some (.byte 0x7F) ∧
    resp (.ioData2 .read) s0 = some (.byte 0x7F) ∧ resp (.ioCtrl0 .read) s0 = some (.byte 0) ∧
    resp (.ioSer0 .read) s0 = some (.byte 0) := by decide +kernel

/-- The pad state of the vectors I3 to I11: `DATA0` holds `data`, `CTRL0` 0x40, and the pad is at `phase`. -/
def pads (data : Byte) (phase : BitVec 2) : State :=
  onBus (fun b => { b with ioData := [(0, data)], ioCtrl := [(0, 0x40)],
                           padPhase := if phase = 0 then [] else [(0, phase)] })
    (onSched (fun x => { x with padLatch := 0xFFFFFB2E }) s0)

/-- Vectors I3 to I10: what `DATA0` reads in every phase. -/
theorem test_pad_reads : resp (.ioData0 .read) (pads 0x40 0) = some (.byte 0x6E) ∧
    resp (.ioData0 .read) (pads 0 0) = some (.byte 0x02) ∧ resp (.ioData0 .read) (pads 0 1) = some (.byte 0x02) ∧
    resp (.ioData0 .read) (pads 0 2) = some (.byte 0) ∧ resp (.ioData0 .read) (pads 0x40 3) = some (.byte 0x6B) ∧
    resp (.ioData0 .read) (pads 0 3) = some (.byte 0x0F) ∧ resp (.ioData0 .read) (pads 0xFF 0) = some (.byte 0xEE) := by
  decide +kernel

/-- Vectors I5, I11, I4, I14: a rising edge moves the phase, modulo four, a falling one does not, nor a three-button
pad's. -/
theorem test_pad_edges : ran (.ioData0 (.write 0x40)) (pads 0 0) = some (pads 0x40 1) ∧
    ran (.ioData0 (.write 0x40)) (pads 0 3) = some (pads 0x40 0) ∧
    ran (.ioData0 (.write 0)) (onBus (fun b => { b with padTimeout := [(0, 2)] }) (pads 0x40 1)) = some (pads 0 1) ∧
    ran (.ioData0 (.write 0x40)) { pads 0 0 with cfg := { Cfg.test with sixButton := [] } }
      = some { pads 0x40 0 with cfg := { Cfg.test with sixButton := [] } } := by decide +kernel

/-- Vectors I16, I17, I18, and the control registers. -/
theorem test_io_registers :
    resp (.ioData1 .read) (onBus (fun b => { b with ioData := [(1, 0)], ioCtrl := [(1, 0x40)] }) s0) = some (.byte 0x33) ∧
    resp (.ioData2 .read) (onBus (fun b => { b with ioData := [(2, 0x15)], ioCtrl := [(2, 0x7F)] }) s0)
      = some (.byte 0x15) ∧
    ran (.ioSer2 (.write 0x5A)) s0 = some (onBus (fun b => { b with ioSer := [(2, 0x5A)] }) s0) ∧
    resp (.ioSer2 .read) (onBus (fun b => { b with ioSer := [(2, 0x5A)] }) s0) = some (.byte 0x5A) ∧
    ran (.ioCtrl0 (.write 0x40)) s0 = some (onBus (fun b => { b with ioCtrl := [(0, 0x40)] }) s0) ∧
    ran (.ioCtrl2 (.write 0x7F)) s0 = some (onBus (fun b => { b with ioCtrl := [(2, 0x7F)] }) s0) := by decide +kernel

/-- R221 for the other registers of the block, each its own. -/
theorem test_io_registers_apart : ran (.ioData1 (.write 0)) s0 = some (onBus (fun b => { b with ioData := [(1, 0)] }) s0) ∧
    ran (.ioData2 (.write 1)) s0 = some (onBus (fun b => { b with ioData := [(2, 1)] }) s0) ∧
    ran (.ioCtrl1 (.write 1)) s0 = some (onBus (fun b => { b with ioCtrl := [(1, 1)] }) s0) ∧
    ran (.ioSer0 (.write 1)) s0 = some (onBus (fun b => { b with ioSer := [(0, 1)] }) s0) ∧
    ran (.ioSer1 (.write 1)) s0 = some (onBus (fun b => { b with ioSer := [(1, 1)] }) s0) ∧
    ran (.ioSer3 (.write 1)) s0 = some (onBus (fun b => { b with ioSer := [(3, 1)] }) s0) ∧
    ran (.ioSer4 (.write 1)) s0 = some (onBus (fun b => { b with ioSer := [(4, 1)] }) s0) ∧
    ran (.ioSer5 (.write 1)) s0 = some (onBus (fun b => { b with ioSer := [(5, 1)] }) s0) ∧
    ran (.ioSer6 (.write 1)) s0 = some (onBus (fun b => { b with ioSer := [(6, 1)] }) s0) ∧
    ran (.ioSer7 (.write 1)) s0 = some (onBus (fun b => { b with ioSer := [(7, 1)] }) s0) ∧
    ran (.ioSer8 (.write 1)) s0 = some (onBus (fun b => { b with ioSer := [(8, 1)] }) s0) := by decide +kernel

/-! ### The VDP ports and DMA (95_test_vectors.md V, DM). -/

/-- A VDP with the registers `vr`, code and address, every dirty bit clear. -/
def vdp (vr : Mem) (code : BitVec 6) (addr : Half) : State :=
  onVdp (fun v => { v with vr := vr, code := code, addr := addr, dirtyVram := [], dirtyCram := [], dirtyPalette := false,
                           dirtySprite := false }) s0

/-- Vectors V1, V2, V3. -/
theorem test_register_set : ran (.wr16 m0 0xC00004 0x8F02) (vdp [] 0 0)
      = some (onVdp (fun v => { v with dirtyPalette := true, dirtySprite := true }) (vdp [(15, 2)] 0 0)) ∧
    ran (.regset 1 1 0x44) s0 = some (onVdp (fun v => { v with vr := [(1, 0x44)] }) s0) ∧
    ran (.wr16Vdpctrl m0 0xC00006 0x9F55) s0 = some (onVdp (fun v => { v with vr := [(31, 0x55)] }) s0) := by decide +kernel

/-- Vectors V4, V8: the second half of a command, whatever it looks like. -/
theorem test_second_half :
    ran (.wr16 m0 0xC00004 0x8F02) (onVdp (fun v => { v with pend := true, cmdHi := 0x4000 }) s0)
      = some (onVdp (fun v => { v with cmdHi := 0x4000, code := 1, addr := 0x8000 }) s0) ∧
    ran (.cmd2 0xFF 0 3 3) (onVdp (fun v => { v with pend := true, cmdHi := 0x4123 }) s0)
      = some (onVdp (fun v => { v with cmdHi := 0x4123, code := 1, addr := 0xC123 }) s0) := by decide +kernel

/-- Vectors V5, V7. -/
theorem test_first_half_and_status :
    ran (.cmd1 1 0x123) s0 = some (onVdp (fun v => { v with pend := true, cmdHi := 0x4123 }) s0) ∧
    ran (.vstat) (onVdp (fun v => { v with pend := true }) s0) = some { s0 with resp := .word 0x0200 } ∧
    resp (.rd16Vdpctrl m0 0xC00004) s0 = some (.word 0x0200) ∧ resp (.rd16 m0 0xC00005) s0 = some (.word 0x0200) := by
  decide +kernel

/-- Vectors V23, Q10: the status of a line in v-blank, both lanes. -/
theorem test_status_bits : (let s := onVdp (fun v => { v with stF := true, stVblank := true, stHblank := true }) s0
    resp (.rd8Vdpctrl m0 0xC00004) s = some (.byte 0x02) ∧ resp (.rd8Vdpctrl m0 0xC00005) s = some (.byte 0x8C) ∧
    resp .vstat (onSched (fun x => { x with std := .pal }) s) = some (.word 0x028D)) := by decide +kernel

/-- Vectors V9, V10: a VRAM word at an even and an odd address, with its dirty bits. -/
theorem test_vram_write : ran (.vdataWr 0x1234) (vdp [(15, 2)] 1 0)
      = some (onVdp (fun v => { v with vram := [(0, 0x12), (1, 0x34)], dirtyVram := [(0, true)], dirtySprite := true })
          (vdp [(15, 2)] 1 2)) ∧
    ran (.wr16Vdpdata m0 0xC00000 0x1234) (vdp [(15, 2)] 1 0x101)
      = some (onVdp (fun v => { v with vram := [(0x100, 0x34), (0x101, 0x12)], dirtyVram := [(1, true)],
                                       dirtySprite := true })
          (vdp [(15, 2)] 1 0x103)) := by decide +kernel

/-- Vectors V6, V14, V21. -/
theorem test_data_words : ran (.wr16 m0 0xC00000 0x1111) (onVdp (fun v => { v with pend := true }) (vdp [] 0 0))
      = some (vdp [] 0 0) ∧
    ran (.vdataWr 0xFFFF) (vdp [(15, 2)] 7 0) = some (vdp [(15, 2)] 7 2) ∧
    (ran (.wr8Vdpdata m0 0xC00000 0xAB) (vdp [(15, 2)] 1 0)).map (·.vdp.vram) = some [(0, 0xAB), (1, 0xAB)] := by
  decide +kernel

/-- Vectors V11, V12, V13, V22. -/
theorem test_vram_reads : (let s := fun c a => onVdp (fun v => { v with vram := [(0x10, 0x12), (0x11, 0x34)] }) (vdp [(15, 2)] c a)
    ran .vdataRd (s 0 0x10) = some { s 0 0x12 with resp := .word 0x1234 } ∧
    resp (.rd16Vdpdata m0 0xC00002) (s 0 0x11) = some (.word 0x1234) ∧
    ran (.rd16 m0 0xC00000) (s 1 0x10) = some { s 1 0x12 with resp := .word 0 } ∧
    ran (.rd8Vdpdata m0 0xC00001) (s 0 0x10) = some { s 0 0x12 with resp := .byte 0x34 }) := by decide +kernel

/-- Vectors V16, V17, V20: CRAM entries. -/
theorem test_cram : ran (.vdataWr 0x0246) (vdp [(15, 2)] 3 0x82)
      = some (onVdp (fun v => { v with cram := [(1, 0x0246)], dirtyCram := [(1, true)], dirtyPalette := true })
          (vdp [(15, 2)] 3 0x84)) ∧
    (ran (.vdataWr 0x0222) (vdp [(15, 2)] 3 0x80)).map (·.vdp.cram) = some [(0, 0x0222)] ∧
    resp .vdataRd (onVdp (fun v => { v with cram := [(1, 0x0246)] }) (vdp [] 8 2)) = some (.word 0x0246) := by decide +kernel

/-- Vectors V18, V19: VSRAM entries, and an index beyond them. -/
theorem test_vsram : ran (.vdataWr 0x00AA) (vdp [(15, 2)] 5 0x4E)
      = some (onVdp (fun v => { v with vsram := [(39, 0x00AA)] }) (vdp [(15, 2)] 5 0x50)) ∧
    ran (.vdataWr 0x00BB) (vdp [(15, 2)] 5 0x50) = some (vdp [(15, 2)] 5 0x52) ∧
    resp .vdataRd (onVdp (fun v => { v with vsram := [(39, 0x00AA)] }) (vdp [] 4 0x4E)) = some (.word 0x00AA) ∧
    resp .vdataRd (vdp [] 4 0x50) = some (.word 0) := by decide +kernel

/-- Vectors V24, V25: the address register wraps, or stays with a zero increment. -/
theorem test_address_steps : ran (.vdataWr 0x1234) (vdp [(15, 2)] 1 0xFFFF)
      = some (onVdp (fun v => { v with vram := [(0xFFFE, 0x34), (0xFFFF, 0x12)], dirtyVram := [(255, true)],
                                       dirtySprite := true }) (vdp [(15, 2)] 1 1)) ∧
    (ran (.vdataWr 0x0002) (vdp [] 1 0x40)).map (·.vdp.addr) = some 0x40 := by decide +kernel

/-- Vector V26, and a command in each mode's row (R157, R158): code and address, an armed fill disarmed (DM4). -/
theorem test_command_rows : ran (.wr16 m0 0xC00006 0x8F02) s0 = some (onVdp (fun v => { v with vr := [(15, 2)] }) s0) ∧
    (let s := onVdp (fun v => { v with fillArmed := true }) s0
     ran (.command ⟨1, 0x123, 0, 0, 0, 3⟩) s = some (onVdp (fun v => { v with code := 1, addr := 0xC123 }) s0) ∧
     ran (.modeVramWr ⟨1, 0, 0, 0, 0, 0⟩) s = some (onVdp (fun v => { v with code := 1 }) s0) ∧
     ran (.modeVramRd ⟨0, 0x10, 0, 0, 0, 0⟩) s = some (onVdp (fun v => { v with addr := 0x10 }) s0) ∧
     ran (.modeCramWr ⟨3, 2, 0, 0, 0, 0⟩) s = some (onVdp (fun v => { v with code := 3, addr := 2 }) s0) ∧
     ran (.modeVsramRd ⟨0, 2, 0, 1, 0, 0⟩) s = some (onVdp (fun v => { v with code := 4, addr := 2 }) s0) ∧
     ran (.modeVsramWr ⟨1, 2, 0, 1, 0, 0⟩) s = some (onVdp (fun v => { v with code := 5, addr := 2 }) s0) ∧
     ran (.modeCramRd ⟨0, 2, 0, 2, 0, 0⟩) s = some (onVdp (fun v => { v with code := 8, addr := 2 }) s0) ∧
     ran (.modeInvalid ⟨3, 2, 0, 1, 0, 0⟩) s = some (onVdp (fun v => { v with code := 7, addr := 2 }) s0)) := by decide +kernel

/-- Vectors DM1, DM3: a fill is armed, or the command is plain with DMA disabled. -/
theorem test_fill_armed : (let vr : Byte → Mem := fun r1 => [(1, r1), (15, 1), (19, 4), (23, 0x80)]
    ran (.dmaflag ⟨1, 0x100, 0, 8, 0, 0⟩) (vdp (vr 0x10) 0 0)
      = some (onVdp (fun v => { v with fillArmed := true }) (vdp (vr 0x10) 0x21 0x100)) ∧
    ran .dmastart (vdp (vr 0x10) 0x21 0x100) = some (onVdp (fun v => { v with fillArmed := true }) (vdp (vr 0x10) 0x21 0x100)) ∧
    ran (.dmaflag ⟨1, 0x100, 0, 8, 0, 0⟩) (vdp [(15, 1), (19, 4), (23, 0x80)] 0 0)
      = some (vdp [(15, 1), (19, 4), (23, 0x80)] 0x21 0x100)) := by decide +kernel

/-- Vector DM2: the word, then four units; and the fill alone. -/
theorem test_fill : (let s := onVdp (fun v => { v with fillArmed := true }) (vdp [(15, 1), (19, 4), (23, 0x80)] 0x21 0x100)
    ran (.vdataWr 0xAB00) s
      = some (onVdp (fun v => { v with vram := [(0x100, 0xAB), (0x102, 0xAB), (0x103, 0xAB), (0x105, 0xAB)],
                                       dirtyVram := [(1, true)], dirtySprite := true })
          (vdp [(15, 1), (23, 0x80)] 0x21 0x105)) ∧
    (ran (.dmaFill 0 0xAB) (vdp [(15, 1), (19, 1)] 0 0x100)).map (fun t => (t.vdp.vram, t.vdp.addr))
      = some ([(0x101, 0xAB)], 0x101)) := by decide +kernel

/-- Vector DM5: a fill that is not of VRAM does not run. -/
theorem test_fill_of_cram :
    ran (.vdataWr 0x0EEE) (onVdp (fun v => { v with fillArmed := true }) (vdp [(15, 1), (19, 4), (23, 0x80)] 0x23 0))
      = some (onVdp (fun v => { v with cram := [(0, 0x0EEE)], dirtyCram := [(0, true)], dirtyPalette := true })
          (vdp [(15, 1), (19, 4), (23, 0x80)] 0x23 1)) := by decide +kernel

/-- Vector DM6: an overlapping copy. -/
theorem test_copy :
    (let s := onVdp (fun v => { v with vram := [(0, 0x11), (1, 0x22), (2, 0x33), (3, 0x44)] })
      (vdp [(1, 0x10), (15, 1), (19, 3), (23, 0xC0)] 0x20 1)
     let t := onVdp (fun v => { v with vram := [(0, 0x11), (1, 0x11), (2, 0x11), (3, 0x11)], dirtyVram := [(0, true)],
                                       dirtySprite := true })
      (vdp [(1, 0x10), (15, 1), (21, 3), (23, 0xC0)] 0x20 4)
    ran (.dmaCopy 0) s = some t ∧ ran .dmastart s = some t) := by decide +kernel

/-- Vectors DM7, DM11: two words from general RAM to CRAM, and to nowhere with a read code. -/
theorem test_bus_transfer :
    (let s := fun c => onBus (fun b => { b with ram := [(0, 0x0E), (1, 0xEE), (3, 0x0E)] })
      (vdp [(1, 0x50), (15, 2), (19, 2), (22, 0x80), (23, 0x7F)] c 0)
     let t := fun c => onBus (fun b => { b with ram := [(0, 0x0E), (1, 0xEE), (3, 0x0E)] })
      (vdp [(1, 0x50), (15, 2), (21, 2), (22, 0x80), (23, 0x7F)] c 4)
    ran (.dmaBus 0x7F) (s 0x23)
      = some (onVdp (fun v => { v with cram := [(0, 0x0EEE), (1, 0x000E)], dirtyCram := [(0, true), (1, true)],
                                       dirtyPalette := true }) (t 0x23)) ∧
    ran .dmastart (s 0x20) = some (t 0x20)) := by decide +kernel

/-- Vectors DM8, DM9: the source counter wraps inside its 128 KB, and open bus is transferred. -/
theorem test_bus_transfer_source :
    (ran (.dmaBus 0x7F) (onBus (fun b => { b with ram := [(0, 1), (0xFFFE, 2)] })
        (vdp [(15, 2), (19, 2), (21, 0xFF), (22, 0xFF)] 0x23 0))).map (·.vdp.cram) = some [(0, 0x0200), (1, 0x0100)] ∧
    (ran (.dmaBus 0x28) (vdp [(15, 2), (19, 2)] 0x23 0)).map (·.vdp.cram) = some [(0, 0x5050), (1, 0x5050)] := by decide +kernel

/-! ### The compositor (95_test_vectors.md CP). -/

/-- Vectors CP1 to CP4. -/
theorem test_colours : [0x0EEE#16, 0x000E, 0x00E0, 0x0E00, 0x0008, 0xF111].map rgb888
      = [(255, 255, 255), (255, 0, 0), (0, 255, 0), (0, 0, 255), (146, 0, 0), (0, 0, 0)] ∧
    [0x0EEE#16, 0x000E, 0x00E0, 0x0E00, 0x0008].map (pixelOf 2 0)
      = [[0xFF, 0xFF], [0x00, 0xF8], [0xE0, 0x07], [0x1F, 0x00], [0x00, 0x90]] ∧
    pixelOf 3 5 0x0008 = [0x92, 0, 0] ∧ pixelOf 4 5 0x0008 = [0x92, 0, 0, 0] ∧ pixelOf 1 255 0x0008 = [255] := by decide +kernel

/-- Vectors CP11, CP13, CP14, CP12's first entries. -/
theorem test_sprite_order : (let v := fun m => { s0.vdp with vr := [(5, 0x78)], vram := m }
    spriteOrder Cfg.test (v [(0xF003, 2), (0xF013, 1)]) = [0, 2, 1] ∧
    spriteOrder Cfg.test (v [(0xF003, 0x50)]) = [0] ∧ spriteOrder Cfg.test (v [(0xF003, 0x82)]) = [0, 2] ∧
    (spriteOrder Cfg.test (v [(0xF003, 1), (0xF00B, 2), (0xF013, 1)])).length = 256) := by decide +kernel

/-- Vectors CP16 to CP22. -/
theorem test_composite : (let none_ := fun _ : Nat => (none : Option (BitVec 6 × Bool))
    let two := fun i : Nat => some (if i = 0 then (0x31#6, false) else (0x32#6, false))
    let mix := fun i : Nat => some (if i = 0 then (0x31#6, true) else (0x32#6, false))
    [compositeOf (0x11, false) (0x22, false) none_ [0] 5, compositeOf (0x10, false) (0x20, false) none_ [0] 5,
      compositeOf (0x11, true) (0x20, false) none_ [0] 5, compositeOf (0x10, true) (0x20, true) none_ [0] 5,
      compositeOf (0x11, true) (0x22, false) (fun _ => some (0x31, false)) [0] 5,
      compositeOf (0x10, false) (0x20, false) two [0, 1] 5, compositeOf (0x11, true) (0x20, false) mix [0, 1] 5]
    = [0x22, 0x05, 0x11, 0x05, 0x11, 0x31, 0x31]) := by decide +kernel

/-- Vectors CP6, CP10: a blank line, and lines outside the picture. -/
theorem test_blank_line :
    (ran (.drawline 0) (onSched (fun x => { x with fb := [(0, 0x55), (255, 0x55), (256, 0x55)] }) s0)).map (·.sched.fb)
      = some [(256, 0x55)] ∧
    ran (.drawline (-1)) (onVdp (fun v => { v with vr := [(1, 0x40)] }) s0)
      = some (onVdp (fun v => { v with vr := [(1, 0x40)] }) s0) ∧
    ran (.drawline 4) (onVdp (fun v => { v with vr := [(1, 0x40)] }) s0)
      = some (onVdp (fun v => { v with vr := [(1, 0x40)] }) s0) := by decide +kernel

/-- R14, R15, R18, R41: a width and a period of the configuration's own, memories without an entry, an empty image. -/
theorem test_parameters :
    (ran (.drawline 0) { onSched (fun x => { x with fb := [(0, 1), (1, 1), (2, 1)] }) s0 with
        cfg := { Cfg.test with lineW := some [2] } }).map (·.sched.fb) = some [(2, 1)] ∧
    (ran (.fmregMode m0 1) { s0 with cfg := { Cfg.test with timerPeriod := some 0 } }).map (·.snd.tmA.run) = some true ∧
    (let s := { vdp [(15, 2)] 3 0 with cfg := { Cfg.test with cramN := 0 } }
     ran (.vdataWr 1) s = some (onVdp (fun v => { v with addr := 2, dirtyPalette := true }) s)) ∧
    (let s := { vdp [(15, 2)] 1 0 with cfg := { Cfg.test with vramSize := 0 } }
     ran (.vdataWr 1) s = some (onVdp (fun v => { v with addr := 2, dirtySprite := true }) s)) ∧
    (let s := { s0 with cfg := { Cfg.test with minImageSize := 0 } }
     ran (.hostLoad ⟨0, []⟩) s = some { s with resp := .loadFail }) := by decide +kernel

/-- Vector CP24 and program P2, line 14: the picture's first pixels, the dirty bits and the sprite order. -/
theorem test_picture : (let v := refreshCaches Cfg.test { s0.vdp with
        vr := [(1, 0x40), (2, 0x30), (4, 0x07), (5, 0x78), (7, 0x05), (15, 2)]
        vram := [(0x20, 0x12), (0xE001, 1)]
        cram := [(1, 0x000E), (2, 0x00E0)] }
    ([0, 1, 2, 255].map fun x => palEntry Cfg.test v (composite Cfg.test v x 0).toNat) = [[1], [2], [5], [5]] ∧
    [v.dirtyPalette, v.dirtySprite] = [false, false] ∧ v.dirtyVram = [] ∧ v.dirtyCram = [] ∧ v.sprOrder = [0]) := by
  decide +kernel

/-! ### Sound (95_test_vectors.md T). -/

/-- MAIN's odometer at `n` microseconds. -/
def odo (n : Nat) : State → State := onSched (fun x => { x with odo := ⟨n, 0⟩ })

/-- A log entry of FM bank 0. -/
def fmw (r v : Byte) (t : Nat) : SynthEntry := .write .fm 0 r v t

/-- Vectors T1, T11: an ordinary register of either bank, at the port and by row. -/
theorem test_fm_register : ran (.wr8FmAddr0 m0 0xA04000 0x30) s0 = some (onSnd (fun x => { x with fmSel := [(0, 0x30)] }) s0) ∧
    ran (.wr8FmData0 m0 0xA04001 0x71) (onSnd (fun x => { x with fmSel := [(0, 0x30)] }) s0)
      = some (onSnd (fun x => { x with fmSel := [(0, 0x30)], fm := [(0x30, 0x71)], synthLog := [fmw 0x30 0x71 0] }) s0) ∧
    ran (.fmregOther m0 1 0x27 1) s0
      = some (onSnd (fun x => { x with fm := [(0x127, 1)], synthLog := [.write .fm 1 0x27 1 0] }) s0) := by decide +kernel

/-- R150: the ports of bank 1. -/
theorem test_fm_bank_1 : ran (.wr8FmAddr1 m0 0xA04002 0x24) s0 = some (onSnd (fun x => { x with fmSel := [(1, 0x24)] }) s0) ∧
    ran (.wr8FmData1 m0 0xA04003 9) (onSnd (fun x => { x with fmSel := [(1, 0x24)] }) s0)
      = some (onSnd (fun x => { x with fmSel := [(1, 0x24)], fm := [(0x124, 9)],
                                       synthLog := [.write .fm 1 0x24 9 0] }) s0) ∧
    ran (.awrFm 0x4002 0x24 0) s0 = some (onSnd (fun x => { x with fmSel := [(1, 0x24)] }) s0) := by decide +kernel

/-- Vector T2: the value registers, then the start of timer A. -/
theorem test_timer_start : ran (.fmregTaHi m0 0xFF) s0
      = some (onSnd (fun x => { x with fm := [(0x24, 0xFF)], synthLog := [fmw 0x24 0xFF 0] }) s0) ∧
    ran (.fmregTaLo m0 3) s0 = some (onSnd (fun x => { x with fm := [(0x25, 3)], synthLog := [fmw 0x25 3 0] }) s0) ∧
    ran (.fmregTb m0 0xFF) s0 = some (onSnd (fun x => { x with fm := [(0x26, 0xFF)], synthLog := [fmw 0x26 0xFF 0] }) s0) ∧
    ran (.fmregMode m0 1) (onSnd (fun x => { x with fm := [(0x24, 0xFF), (0x25, 3)] }) s0)
      = some (onSnd (fun x => { x with fm := [(0x24, 0xFF), (0x25, 3), (0x27, 1)], tmA := ⟨true, 18, 18⟩,
                                       synthLog := [fmw 0x27 1 0] }) s0) := by decide +kernel

/-- The state of vector T3: timer A running, fired once at 100. -/
def t3 : State :=
  odo 100 (onSnd (fun x => { x with fm := [(0x24, 0xFF), (0x25, 3), (0x27, 1)], tmA := ⟨true, 18, 118⟩, tover := 1 }) s0)

/-- Vectors T3, T8: timers fire at their deadlines, and not before. -/
theorem test_timer_tick : ran .timertick (onSnd (fun x => { x with tmA := ⟨true, 18, 18⟩, tover := 0 }) t3) = some t3 ∧
    ran .timertick (onSnd (fun x => { x with tmB := ⟨true, 288, 288⟩ }) (odo 200 s0))
      = some (onSnd (fun x => { x with tmB := ⟨true, 288, 288⟩ }) (odo 200 s0)) ∧
    ran .timerstep (onSnd (fun x => { x with tmB := ⟨true, 288, 288⟩ }) (odo 300 s0))
      = some (onSnd (fun x => { x with tmB := ⟨true, 288, 576⟩, tover := 2 }) (odo 300 s0)) := by decide +kernel

/-- Vector T4. -/
theorem test_overflow_read : resp (.rd8FmAny m0 0xA04003) t3 = some (.byte 1) ∧ resp (.rd8Fm m0 0xA05FFC) t3 = some (.byte 1) ∧
    resp (.ardFm 0x4000 0) t3 = some (.byte 1) := by decide +kernel

/-- Vectors T5, T6, T7. -/
theorem test_mode_value : ran (.modeValue m0 0x31) t3 = some t3 ∧
    ran (.modeValue m0 0x21) t3 = some (onSnd (fun x => { x with tover := 0 }) t3) ∧
    ran (.modeValue m0 0) t3 = some (onSnd (fun x => { x with tover := 0, tmA := ⟨false, 18, 118⟩ }) t3) := by decide +kernel

/-- Vectors T9, T12. -/
theorem test_mode_start : (ran (.fmregMode m0 3) s0).map (fun t => [t.snd.tmA, t.snd.tmB])
      = some [⟨true, 18432, 18432⟩, ⟨true, 73728, 73728⟩] ∧
    (ran (.fmregMode m0 0x10) (onSnd (fun x => { x with tover := 3 })
        { s0 with cfg := { Cfg.test with timerAckLevel := true } })).map (·.snd.tover) = some 2 := by decide +kernel

/-- Vectors T14, T15: a DAC write while capture is off and on. -/
theorem test_dac_write : ran (.fmregDacdata m0 0xC0) s0 = some (onSnd (fun x => { x with fm := [(0x2A, 0xC0)] }) s0) ∧
    ran (.fmregDacen m0 0x80) s0 = some (onSnd (fun x => { x with fm := [(0x2B, 0x80)], dacEn := true }) s0) ∧
    ran (.dacdataValue m0 0xC0) (odo 10 (onSnd (fun x => { x with dacEn := true }) s0))
      = some (odo 10 (onSnd (fun x => { x with dacEn := true, dacBuf := [(10, 0xC0)], dacIdx := 10, dacLast := 0xC0 }) s0)) := by
  decide +kernel

/-- The state of vector T15. -/
def t15 : State := odo 10 (onSnd (fun x => { x with dacEn := true, dacBuf := [(10, 0xC0)], dacIdx := 10, dacLast := 0xC0 }) s0)

/-- Vectors T16, T17: the same microsecond again, and an earlier one. -/
theorem test_dac_same_time : ran (.dacdataValue m0 0xD0) t15
      = some (onSnd (fun x => { x with dacBuf := [(10, 0xD0)], dacLast := 0xD0 }) t15) ∧
    ran (.dacdataValue w0 0x10) t15 = some (onSnd (fun x => { x with dacBuf := [(10, 0x10)], dacLast := 0x10 }) t15) := by
  decide +kernel

/-- Vectors T18, T19: disabling captures the centre value; a time beyond the buffer is clamped. -/
theorem test_dac_end : (ran (.dacenValue m0 0) (odo 20 t15)).map
        (fun t => (t.snd.dacEn, t.snd.dacIdx, (List.range 4).map fun k => Memory.get 0x80 t.snd.dacBuf (k * 5 + 6)))
      = some (false, 20, [0x80, 0xC0, 0xC0, 0x80]) ∧
    (ran (.dacdataValue ⟨.main, 1⟩ 0x11) (odo 799 (onSnd (fun x => { x with dacIdx := 780, dacEn := true }) s0))).map
      (·.snd.dacBuf) = some [(799, 0x11)] := by decide +kernel

/-- R426, R163: the PSG byte. -/
theorem test_psg : ran (.psgValue ⟨.main, 7⟩ 0x9F) s0
      = some (onSnd (fun x => { x with synthLog := [.write .psg 0 0 0x9F 7] }) s0) ∧
    ran (.wr8Psg m0 0xC00011 0) s0 = some (onSnd (fun x => { x with synthLog := [.write .psg 0 0 0 0] }) s0) := by decide +kernel

/-- Vector T13, and the capture index of R450. -/
theorem test_rebase : (ran (.timerrebase 800) (onSnd (fun x => { x with tmA := ⟨true, 5, 1000⟩, tmB := ⟨true, 5, 718⟩ }) s0)).map
        (fun t => [t.snd.tmA, t.snd.tmB]) = some [⟨true, 5, 200⟩, ⟨true, 5, 0⟩] ∧
    ran .soundframestart (onSnd (fun x => { x with dacIdx := 5 }) s0) = some s0 := by decide +kernel

/-- Vectors T20, T22. -/
theorem test_mix : ([0x80, 0xFF, 0x00, 0xC0].map (dacSample Cfg.test)) = [0, 8128, -8192, 4096] ∧
    mixPcm Cfg.test (fun _ _ => 32000) [(0, 0xFF)] 1 2 false = [[32767], [32767]] ∧
    mixPcm Cfg.test (fun _ _ => -32000) [(0, 0)] 1 1 false = [[-32768]] := by decide +kernel

/-- Vector T21 and program P3's frame end: eight zeros while muted, the buffer held, the log handed over, the deadline
rebased. -/
theorem test_finalize :
    (let s := odo 800 (onSnd (fun x => { x with
        dacIdx := 797, dacLast := 0x40, tmA := ⟨true, 18, 718⟩, synthLog := [fmw 0x30 1 0] })
      { s0 with host := { s0.host with mute := stays true } })
    resp .finalize s = some (.pcm (List.replicate 8 [0])) ∧
    (ran .finalize s).map (fun t => (t.snd.dacBuf, t.snd.synthLog, t.snd.tmA, t.synths))
      = some ([(798, 0x40), (799, 0x40)], [], ⟨true, 18, 0⟩, 1)) := by decide +kernel

/-! ### Interrupts, engines and the frame (95_test_vectors.md Q, F). -/

/-- Vectors Q3, Q4, Q5. -/
theorem test_acknowledge :
    (let s := onVdp (fun v => { v with vr := [(0, 0x10), (1, 0x60)], stF := true }) (onSched (fun x => { x with irqH := true, irqV := true }) s0)
    ran .ackV s = some { onVdp (fun v => { v with stF := false }) (onSched (fun x => { x with irqV := false }) s)
      with resp := .vector 30 } ∧
    ran .ackH s = some { onSched (fun x => { x with irqH := false }) s with resp := .vector 28 } ∧
    ipl s = 6) := by decide +kernel

/-- Vectors Q1, Q6, Q7, Q8. -/
theorem test_spurious :
    (let s := onVdp (fun v => { v with vr := [(1, 0x60)] }) (onSched (fun x => { x with irqH := true, irqV := true }) s0)
    ran .ackH s = some { s with resp := .vector 24 } ∧ ran (.ackSpurious 5) s = some { s with resp := .vector 24 } ∧
    ran .ackV s0 = some { s0 with resp := .vector 24 } ∧ ran (.ackSpurious 7) s0 = some { s0 with resp := .vector 24 }) := by
  decide +kernel

/-- The state with one `Execute` call of MAIN and one of AUX recorded. -/
def eng (m a : EngCall) : State := { s0 with engines := ⟨[m], [a]⟩ }

/-- Vectors F6, F7: a call that consumes its budget, less, or more. -/
theorem test_runto : (ran (.runto .main 20) (eng ⟨[], 15⟩ ⟨[], 0⟩)).map (fun t => (t.sched.odo, t.sched.tgt, t.fault))
      = some (⟨15, 0⟩, ⟨20, 0⟩, none) ∧
    (ran (.runto .main 20) (eng ⟨[], 21⟩ ⟨[], 0⟩)).map (fun t => (t.sched.odo, t.fault))
      = some (⟨0, 0⟩, some (.engineOverrun .main 20 21)) := by decide +kernel

/-- Vectors F8, F9, F10. -/
theorem test_engine_breaches :
    (ran (.execute .main 20) (eng ⟨[.op 5 (.rd8 0), .op 3 (.rd8 0)], 20⟩ ⟨[], 0⟩)).map (·.fault)
      = some (some (.engineStamp .main)) ∧
    (ran (.execute .main 20) (eng ⟨[.op 10 (.rd8 0)], 5⟩ ⟨[], 0⟩)).map (·.fault) = some (some (.engineStamp .main)) ∧
    (ran (.execute .aux 20) (eng ⟨[], 0⟩ ⟨[.op 0 (.rd8 0)], 5⟩)).map (·.fault) = some (some (.engineAgent .aux)) := by
  decide +kernel

/-- R284: what an engine's operations do and answer, and the count. -/
theorem test_execute : (ran (.execute .main 20)
        (eng ⟨[.op 0 (.wr16 0xE00000 0x1234), .op 4 (.rd8 0xE00001), .host (.mute true), .look, .op 4 (.ack 6)], 15⟩
          ⟨[], 0⟩)).map
      (fun t => (t.bus.ram, t.engResps, t.host.mute.value, t.resp, t.calls))
    = some ([(0, 0x12), (1, 0x34)], [.none, .byte 0x34, .level 0, .vector 24], true, .consumed 15, 1) ∧
    (ran (.execute .aux 20) (eng ⟨[], 0⟩ ⟨[.op 2 (.awr8 0x0010 7), .op 3 (.ard8 0x2010)], 15⟩)).map
      (fun t => (t.bus.zram, t.engResps)) = some ([(0x10, 7)], [.none, .byte 7]) := by decide +kernel

/-- Vector F11: no h-blank sub-slice, two calls; and F1's targets for line 0. -/
theorem test_slices :
    (ran .slices { s0 with cfg := { Cfg.test with hbl := ⟨⟨0, 0⟩, ⟨0, 0⟩⟩ }, engines := ⟨[⟨[], 100⟩], [⟨[], 50⟩]⟩ }).map
      (fun t => (t.sched.odo, t.calls, t.vdp.stHblank)) = some (⟨100, 50⟩, 2, false) ∧
    (ran .slices { s0 with engines := ⟨[⟨[], 20⟩, ⟨[], 80⟩], [⟨[], 10⟩, ⟨[], 40⟩]⟩ }).map
      (fun t => (t.sched.odo, t.sched.tgt, t.calls, t.fault)) = some (⟨100, 50⟩, ⟨100, 50⟩, 4, none) := by decide +kernel

/-- Vectors F3, F4 and program P1, line 2: the counter falls, or reloads and raises. -/
theorem test_hstep : (let s := fun n => onSched (fun x => { x with line := 3, hcnt := n }) (onVdp (fun v => { v with vr := [(10, 2)] }) s0)
    (ran .hstep (s 1)).map (fun t => (t.sched.hcnt, t.sched.irqH)) = some (0, false) ∧
    (ran .hstep (s 0)).map (fun t => (t.sched.hcnt, t.sched.irqH)) = some (2, true) ∧
    ran .hstep (onSched (fun x => { x with line := 5 }) (s 0)) = some (onSched (fun x => { x with line := 5 }) (s 0))) := by
  decide +kernel

/-- Program P1, line 4: the last Active line. -/
theorem test_line_step :
    (ran .linestep { onSched (fun x => { x with line := 4, odo := ⟨400, 200⟩ }) s0 with
        engines := ⟨[⟨[], 20⟩, ⟨[], 80⟩], [⟨[], 10⟩, ⟨[], 40⟩]⟩ }).map
      (fun t => ([t.sched.line, t.sched.odo.main, t.sched.odo.aux],
        [t.sched.irqV, t.sched.frameComplete, t.vdp.stF, t.vdp.stVblank, t.vdp.stHblank]))
    = some ([5, 500, 250], [true, true, true, true, false]) := by decide +kernel

/-- Vectors I12, I13. -/
theorem test_pad_timeout : (let s := fun n => onBus (fun b => { b with padPhase := [(0, 2)], padTimeout := n }) s0
    ran .padtimeout (s []) = some (s [(0, 1)]) ∧ ran .padtimeout (s [(0, 2)]) = some s0 ∧ ran .padtimeout s0 = some s0) := by
  decide +kernel

/-- Vectors F16, H20, with a write of the host waiting and without. -/
theorem test_pad_sample : (ran .padsample { s0 with host := { s0.host with pad := ⟨0, [some 0xFFFFFFFE], false, 0⟩ } }).map
      (fun t => (t.sched.padLatch, t.host.pad)) = some (0xFFFFFFFE, ⟨0xFFFFFFFE, [], false, 0⟩) ∧
    ran .padsample (quiet s0) = some (quiet s0) := by decide +kernel

/-- Vector F18. -/
theorem test_snapshot : ran .snapshot (onVdp (fun v => { v with cram := [(1, 0x000E)] }) s0)
    = some (onSched (fun x => { x with palsnap := [(4, 0xFF)] }) (onVdp (fun v => { v with cram := [(1, 0x000E)] }) s0)) := by
  decide +kernel

/-- R266, R278, vector F17. -/
theorem test_frame_start_and_boundary :
    (let s := onVdp (fun v => { v with stF := true, vr := [(10, 7)] }) (onSched (fun x => { x with line := 8, irqV := true, frameComplete := true, odo := ⟨800, 400⟩ }) s0)
    (ran .framestart { s with host := { s.host with pal := stays true } }).map (fun t =>
        (t.sched.std, t.sched.line, t.sched.hcnt, t.sched.odo, [t.sched.inFrame, t.sched.irqV, t.sched.frameComplete, t.vdp.stF]))
      = some (.pal, 0, 7, ⟨0, 0⟩, [true, true, false, false]) ∧
    (ran .vblankboundary s0).map (fun t => [t.sched.irqV, t.sched.frameComplete, t.vdp.stF, t.vdp.stVblank])
      = some [true, true, true, true]) := by decide +kernel

/-- Vector F13, R290: a cancelled frame, and the end of one. -/
theorem test_frame_ends : (let s := { s0 with host := { s0.host with cancel := stays true, mute := stays true } }
    ran .runframe s = some { s with resp := .cancelled } ∧
    (ran .frameend (odo 800 (onSched (fun x => { x with inFrame := true }) s))).map (fun t => (t.sched.inFrame, t.resp))
      = some (false, .done [] [] (List.replicate 8 [0]))) := by decide +kernel

/-- Vector F7: an overrun abandons the frame, and every later operation is refused. -/
theorem test_fault_in_frame : (ran .runframe (quiet (eng ⟨[], 21⟩ ⟨[], 0⟩))).map (fun t => (t.fault, t.sched.inFrame, t.sched.line))
      = some (some (.engineOverrun .main 20 21), true, 0) ∧
    refusal .vstat { s0 with fault := some (.engineAgent .aux) } = some .afterFault := by decide +kernel

/-! ### Host operations (95_test_vectors.md H). -/

/-- An image of 64 KB with a save-RAM header. -/
def img (s e : Mem) : Image := ⟨0x10000, [(0x1B0, 0x52), (0x1B1, 0x41)] ++ s ++ e⟩

/-- Vectors H1, H2. -/
theorem test_load_fails : ran (.hostLoad ⟨0x1FF, []⟩) s0 = some { s0 with resp := .loadFail } ∧
    ran (.hostLoad ⟨0x400001, []⟩) (k8 true true) = some { k8 true true with resp := .loadFail } := by decide +kernel

/-- Vectors H4, H6, H8, H9, S7: the descriptor of an image. -/
theorem test_save_ram_of :
    saveRamOf Cfg.test (img [(0x1B5, 0x20), (0x1B7, 1)] [(0x1B9, 0x20), (0x1BA, 1), (0x1BB, 0xFE)])
      = ⟨true, 0x200000, 0x2001FF, true, false, []⟩ ∧
    saveRamOf Cfg.test (img [(0x1B5, 0x20), (0x1B7, 1)] [(0x1B9, 0x20), (0x1BB, 1)]) = .absent ∧
    saveRamOf Cfg.test (img [(0x1B5, 0x3F), (0x1B6, 0xFF)] [(0x1B9, 0x40), (0x1BB, 1)]) = .absent ∧
    saveRamOf Cfg.test ⟨0x10000, [(0x1B0, 0x52), (0x1B1, 0x42), (0x1B5, 0x20), (0x1B9, 0x20), (0x1BB, 0xFF)]⟩
      = .absent := by
  decide +kernel

/-- Vectors H10, H3: a load, and what it resets. -/
theorem test_load :
    (let r := ran (.hostLoad (img [(0x1B6, 0x80)] [(0x1BA, 0x81), (0x1BB, 0xFF)]))
        (onBus (fun b => { b with ram := [(5, 9)], bank := 0x155 }) s0)
     r.map (fun t => (t.resp, t.bus.sram)) = some (.loadOk, ⟨true, 0x8000, 0x81FF, false, false, []⟩) ∧
     r.map (fun t => (t.bus.romLen, t.bus.ram, t.bus.bank, t.snd.synthLog)) = some (0x10000, [], 0, [.resetMark])) ∧
    (ran (.hostLoad ⟨0x10000, []⟩) s0).map (fun t => (t.resp, t.bus.sram, t.bus.cartPresent))
      = some (.loadOk, .absent, true) := by decide +kernel

/-- A loaded image with 4E 71 at 0x200. -/
def h12 : State := onBus (fun b => { b with romLen := 0x10000, rom := [(0x200, 0x4E), (0x201, 0x71)], cartPresent := true }) s0

/-- The same with the patch of vector H12. -/
def h12p : State :=
  onBus (fun b => { b with romLen := 0x10000, rom := [(0x200, 0x60), (0x201, 0x02)], cartPresent := true,
                           patches := [(0x200, 0x4E71)] }) s0

/-- Vectors H12 to H15. -/
theorem test_patch : ran (.hostPatch [(0x200, 0x6002)]) h12 = some { h12p with resp := .skipped 0 } ∧
    ran (.hostPatch [(0x200, 0x6002)]) h12p = some { h12 with resp := .skipped 0 } ∧
    ran (.hostPatch [(0x201, 0xFFFF)]) h12p = some { h12 with resp := .skipped 0 } ∧
    ran (.hostPatch [(0x010000, 0x1234)]) h12 = some { h12 with resp := .skipped 1 } := by decide +kernel

/-- Vectors H17, H18. -/
theorem test_reset_and_unplug :
    (let s := onBus (fun b => { b with
        ram := [(5, 9)], bank := 0x155, sram := ⟨true, 0x200000, 0x2001FF, false, true, [(0, 7)]⟩ })
      (onVdp (fun v => { v with vr := [(1, 0x40)], dirtyPalette := false }) h12p)
    ran .hostReset s
      = some (onSnd (fun x => { x with synthLog := [.resetMark] })
          (onBus (fun b => { b with sram := ⟨true, 0x200000, 0x2001FF, true, false, [(0, 7)]⟩ }) h12p)) ∧
    ran .hostUnplug s = some (onSnd (fun x => { x with synthLog := [.resetMark] }) s0)) := by decide +kernel

/-- Vector H19. -/
theorem test_host_inside_frame : (let s := onSched (fun x => { x with inFrame := true }) s0
    [refusal (.hostLoad ⟨0x200, []⟩) s, refusal .hostUnplug s, refusal (.hostPatch []) s, refusal .hostReset s]
      = List.replicate 4 (some .insideFrame) ∧ refusal (.hostSetmute true) s = none) := by decide +kernel

/-- R486. -/
theorem test_mailbox : (let s := quiet s0
    ran (.hostSetpad 0xFFFFFFFE) s = some { s with host := { s.host with pad := stays 0xFFFFFFFE } } ∧
    ran (.hostSetmute true) s = some { s with host := { s.host with mute := stays true } } ∧
    ran (.hostSetcancel true) s = some { s with host := { s.host with cancel := stays true } } ∧
    ran (.hostSetpal true) s = some { s with host := { s.host with pal := stays true } }) := by decide +kernel

/-- An ill-formed configuration refuses every operation (R18, R570). -/
theorem test_ill_formed_cfg : refusal .vstat { s0 with cfg := { Cfg.test with ramSize := 3 } } = some .illFormedCfg := by
  decide +kernel

/-! ### Witnesses: for each statement with hypotheses, values that meet all of them, at the ends of each range. -/

theorem ready_test {s : State} (hc : s.cfg = Cfg.test) (hf : s.fault = none) : s.ready :=
  ⟨hc ▸ test_cfg_wf.1, hf⟩

theorem ready0 : s0.ready := ready_test rfl rfl

theorem next_of_ran {i : Instr} {s : State} (h : (ran i s).isSome = true) : ∃ t, exec i s = .next t := by
  unfold ran at h
  split at h
  · next t heq => exact ⟨t, heq⟩
  · simp at h

theorem witness_DecodeReadsBackEncode : (Instr.wr16 ⟨.auxwin, 0xFFFFFFFF⟩ 0xFFFFFF 0xFFFF).wf = true ∧
    (Instr.hostLoad ⟨2, [(1, 0xFF)]⟩).wf = true := by decide +kernel

theorem witness_DecodedOperationsAreWellFormed : dec [88] = some .dmastart ∧ dec [107, 7] = some (.ackSpurious 7) := by
  decide +kernel

theorem witness_ResetIsGood : Cfg.test.wf = true := test_cfg_wf.1

theorem witness_StepRunsTheDecodedOperation : s0.inq = [] ∧ decode [88] = .ok (.dmastart, []) ∧
    decode [133] = .error (.unknownRow 133) ∧ decode [0] = .error (.truncated 0) := ⟨rfl, rfl, rfl, rfl⟩

theorem tables0 : Vdp.tables s0.cfg s0.vdp :=
  ⟨Memory.table_nil .., Memory.table_nil .., Memory.table_nil .., Memory.table_nil ..,
    Memory.table_ofList _ _ _ (by decide +kernel), Memory.table_ofList _ _ _ (by decide +kernel), Memory.table_nil ..,
    by decide⟩

/-- A reset state with one operation requested is good. -/
theorem witness_StepKeepsGoodStates : (let s := { s0 with inq := [88] }
    s.Inv ∧ ∃ t, step s = .next t) := by
  refine ⟨⟨test_cfg_wf.1, ?_, ?_, ?_, ?_, ?_⟩, ?_⟩
  · unfold Sched.inv Memory.table Memory.below
    decide +kernel
  · refine ⟨?_, ⟨nofun, fun _ => rfl⟩, ?_, ?_, ?_, ?_, ?_, ?_, ?_, List.Pairwise.nil, nofun⟩ <;>
      unfold Memory.table Memory.below <;> decide +kernel
  · exact tables0
  · exact ⟨nofun, nofun, fun _ _ => rfl, fun _ _ => rfl⟩
  · unfold Snd.inv Memory.table Memory.below
    decide +kernel
  · obtain ⟨t, h⟩ := next_of_ran (i := .dmastart) (s := s0) (by decide +kernel)
    exact ⟨t, h⟩

theorem cacheInv0 : Vdp.cacheInv s0.cfg s0.vdp := ⟨nofun, nofun, fun _ _ => rfl, fun _ _ => rfl⟩

theorem witness_CacheInvariant : Vdp.cacheInv s0.cfg s0.vdp ∧ ∃ t, exec (.regset 0 15 2) s0 = .next t :=
  ⟨cacheInv0, next_of_ran (by decide +kernel)⟩

theorem witness_ConfigurationIsConstant : (∃ t, exec .hostReset s0 = .next t) ∧ ∃ t, exec .vstat s0 = .next t :=
  ⟨next_of_ran (by decide +kernel), next_of_ran (by decide +kernel)⟩

theorem witness_OnlyTheSchedulerRaises : Instr.ackV ≠ .runframe ∧ Instr.ackV ≠ .linestep ∧ Instr.ackV ≠ .hstep ∧
    Instr.ackV ≠ .vblankboundary ∧ ∃ t, exec .ackV s0 = .next t :=
  ⟨nofun, nofun, nofun, nofun, next_of_ran (by decide +kernel)⟩

theorem witness_Refusals : (s0.cfg.wf = true ∧ { s0 with fault := some (.engineAgent .aux) }.fault ≠ none) ∧
    { Cfg.test with ramSize := 3 }.wf = false ∧
    (onSched (fun x => { x with inFrame := true }) s0).ready ∧
    (onSched (fun x => { x with inFrame := true }) s0).sched.inFrame = true :=
  ⟨⟨test_cfg_wf.1, nofun⟩, by decide +kernel, ready_test rfl rfl, rfl⟩

theorem witness_SystemResetTable : (s0.ready ∧ s0.sched.inFrame = false ∧ s0.bus.sram.present = false) ∧
    (k8 true true).ready ∧ (k8 true true).sched.inFrame = false ∧ (k8 true true).bus.sram.present = true :=
  ⟨⟨ready0, rfl, rfl⟩, ready_test rfl rfl, rfl, rfl⟩

theorem witness_GeneralRamIsMirrored : s0.ready ∧ inWin s0.cfg.ramWin 0xE00000 = true ∧
    inWin s0.cfg.ramWin 0xFFFFFF = true ∧ Memory.wf 0 s0.bus.ram := ⟨ready0, by decide +kernel⟩

theorem witness_CoprocessorRamIsShared : s0.ready ∧ Memory.wf 0 s0.bus.zram ∧ inWin s0.cfg.zramWin 0xA00000 = true ∧
    inWin s0.cfg.zramWin 0xA03FFF = true ∧ (0#16).toNat ≤ 0x3FFF ∧ (0x3FFF#16).toNat ≤ 0x3FFF ∧
    (0xA03FFF#24).toNat &&& (s0.cfg.zramSize - 1) = (0x3FFF#16).toNat &&& (s0.cfg.zramSize - 1) :=
  ⟨ready0, by decide +kernel⟩

theorem witness_RomIsReadOnly : s0.ready ∧ s0.bus.romLen ≤ s0.cfg.cartEnd + 1 ∧ (3#24).toNat < s0.bus.romLen ∧
    s0.bus.sram.present = false := ⟨ready0, by decide +kernel⟩

/-- An inactive descriptor leaves the image visible. -/
theorem witness_RomIsReadOnly_inactive : (k8 false false).ready ∧ (0x8000#24).toNat < (k8 false false).bus.romLen ∧
    (k8 false false).bus.sram.active = false := ⟨ready_test rfl rfl, by decide +kernel⟩

theorem witness_SaveRamIsGated : (let d : Bool → SaveRam := fun wp => ⟨true, 0x8000, 0x81FF, true, wp, []⟩
    (k8 true true).ready ∧ (k8 true true).bus.sram = d true ∧ (k8 true false).ready ∧
    (k8 true false).bus.sram = d false ∧ (d false).start.toNat ≤ (0x8000#24).toNat ∧
    (0x81FF#24).toNat ≤ (d false).stop.toNat ∧ (d false).stop.toNat ≤ Cfg.test.cartEnd ∧ Memory.wf 0 (d false).bytes) :=
  ⟨ready_test rfl rfl, rfl, ready_test rfl rfl, rfl, by decide +kernel⟩

theorem witness_NoDeviceIsOpenBus : s0.ready ∧ noDevice s0.cfg s0.bus 4 ∧ noDevice s0.cfg s0.bus 0x3FFFFF ∧
    noDevice s0.cfg s0.bus 0x400000 ∧ noDevice s0.cfg s0.bus 0xA130F2 ∧ noDevice s0.cfg s0.bus 0xA1001E ∧
    noDevice s0.cfg s0.bus 0xC00008 ∧ noDevice s0.cfg s0.bus 0xC0001F ∧ writeOnly s0.cfg 0xA06000 ∧
    writeOnly s0.cfg 0xA130F1 ∧ writeOnly s0.cfg 0xC00011 ∧ inWin s0.cfg.ioWin 0xA10001 = true ∧
    (field 0xA10001#24 0 5).toNat = 1 ∧ inWin s0.cfg.ioWin 0xA1001E = true ∧ (0xA1001E#24).getLsbD 0 = false :=
  by
  refine ⟨ready0, ?_, ?_, ?_, ?_, ?_, ?_, ?_, ?_, ?_, ?_, by decide +kernel⟩ <;>
    first | (unfold noDevice; decide +kernel) | (unfold writeOnly; decide +kernel)

theorem witness_WordAccessIsTwoByteAccesses : s0.ready ∧
    ¬ (inWin s0.cfg.vdpWin 0xFFFFFF = true ∧ (field 0xFFFFFF#24 0 5).toNat < 8) ∧
    ¬ (inWin s0.cfg.vdpWin 0xC00008 = true ∧ (field 0xC00008#24 0 5).toNat < 8) := ⟨ready0, by decide +kernel⟩

theorem witness_SoundPortsReadTheOverflowByte : s0.ready ∧ inWin s0.cfg.fmWin 0xA04000 = true ∧
    inWin s0.cfg.fmWin 0xA05FFF = true ∧ 0x4000 ≤ (0x4000#16).toNat ∧ (0x5FFF#16).toNat ≤ 0x5FFF :=
  ⟨ready0, by decide +kernel⟩

theorem witness_FmAddressPortSelects : s0.ready ∧ Memory.wf 0 s0.snd.fmSel ∧ inWin s0.cfg.fmWin 0xA05FFE = true ∧
    (0xA05FFE#24).getLsbD 0 = false ∧ 1 = (bit 0xA05FFE#24 1).toNat ∧ (0x4000#16).getLsbD 0 = false ∧
    0 = (bit 0x4000#16 1).toNat := ⟨ready0, by decide +kernel⟩

theorem witness_FmDataPortLandsOnTheSelectedRegister : s0.ready ∧ inWin s0.cfg.fmWin 0xA04001 = true ∧
    (0xA04001#24).getLsbD 0 = true ∧ 0x4000 ≤ (0x4001#16).toNat ∧ (0x5FFF#16).toNat ≤ 0x5FFF ∧
    (0x5FFF#16).getLsbD 0 = true ∧ s0.cfg.regMode = 0x27 := ⟨ready0, by decide +kernel⟩

theorem witness_OrdinaryFmRegisterIsShadowedAndForwarded : s0.ready ∧ Memory.wf 0 s0.snd.fm ∧
    ((0#1 : BitVec 1) = 1 ∨
      ((0x24#8 : Byte) ≠ s0.cfg.regMode ∧ (0x24#8 : Byte) ≠ s0.cfg.regDacdata ∧ (0x24#8 : Byte) ≠ s0.cfg.regDacen)) ∧
    ((0#1 : BitVec 1) = 1 ∨
      ((0xFF#8 : Byte) ≠ s0.cfg.regMode ∧ (0xFF#8 : Byte) ≠ s0.cfg.regDacdata ∧ (0xFF#8 : Byte) ≠ s0.cfg.regDacen)) :=
  ⟨ready0, by decide +kernel⟩

theorem witness_ModeWriteStartsAndStopsTimers : s0.ready ∧ Memory.wf 0 s0.snd.fm := ⟨ready0, by decide +kernel⟩

theorem sndInv0 : Snd.inv s0.cfg s0.snd := by
  unfold Snd.inv Memory.table Memory.below
  decide +kernel

theorem witness_DacCapture : (s0.ready ∧ Snd.inv s0.cfg s0.snd ∧ s0.snd.dacEn = false ∧ Memory.wf 0 s0.snd.fm) ∧
    (t15.ready ∧ Snd.inv t15.cfg t15.snd ∧ t15.snd.dacEn = true) ∧ (0x80#8).getLsbD 7 = true ∧
    (0x7F#8).getLsbD 7 = false ∧ s0.cfg.regMode ≠ s0.cfg.regDacdata ∧ s0.cfg.regMode ≠ s0.cfg.regDacen ∧
    s0.cfg.regDacdata ≠ s0.cfg.regDacen := by
  refine ⟨⟨ready0, sndInv0, by decide +kernel⟩, ⟨ready_test rfl rfl, ?_, rfl⟩, by decide +kernel⟩
  unfold Snd.inv Memory.table Memory.below
  decide +kernel

theorem witness_PsgByteIsForwarded : s0.ready ∧ inWin s0.cfg.vdpWin 0xC00011 = true ∧
    (field 0xC00011#24 0 5).toNat = 0x11 := ⟨ready0, by decide +kernel⟩

theorem witness_BankRegisterShifts : s0.ready ∧ inWin s0.cfg.bankWin 0xA06000 = true ∧
    inWin s0.cfg.bankWin 0xA060FF = true ∧ 0x6000 ≤ (0x6000#16).toNat ∧ (0x60FF#16).toNat ≤ 0x60FF :=
  ⟨ready0, by decide +kernel⟩

theorem witness_SaveRamControl : (s0.ready ∧ s0.bus.sram.present = false) ∧ (k8 true false).ready ∧
    (k8 true false).bus.sram.present = true := ⟨⟨ready0, rfl⟩, ready_test rfl rfl, rfl⟩

/-- Registers 0, 1, 3, 4, 6, 7 and 15: the ends of every clause. -/
theorem witness_IoRegistersRead : s0.ready ∧ ∀ p ∈ [(0, 0xA10001#24), (1, 0xA10003#24), (3, 0xA10007#24),
      (4, 0xA10009#24), (6, 0xA1000D#24), (7, 0xA1000F#24), (15, 0xA1001F#24)],
    p.1 < 16 ∧ inWin s0.cfg.ioWin p.2 = true ∧ (field p.2 0 5).toNat = 2 * p.1 + 1 := ⟨ready0, by decide +kernel⟩

theorem witness_IoRegistersWrite : s0.ready ∧ (∀ p ∈ [(0, 0xA10001#24), (15, 0xA1001F#24)],
    p.1 < 16 ∧ inWin s0.cfg.ioWin p.2 = true ∧ (field p.2 0 5).toNat = 2 * p.1 + 1) ∧ Memory.wf 0x7F s0.bus.ioData ∧
    Memory.wf 0 s0.bus.ioCtrl ∧ Memory.wf 0 s0.bus.ioSer ∧ Memory.wf 0 s0.bus.padPhase ∧ Memory.wf 0 s0.bus.padTimeout :=
  ⟨ready0, by decide +kernel⟩

/-- A write without an edge, one that raises the line, one that lowers it. -/
theorem witness_ToggleEdges : (pads 0 0).ready ∧ 0 < (pads 0 0).cfg.nPads ∧ 0 < 3 ∧ Memory.wf 0 (pads 0 0).bus.padPhase ∧
    Memory.wf 0 (pads 0 0).bus.padTimeout ∧
    ran (ioRow (.write 0) 1) (pads 0 0) = some (pads 0 0) ∧ ran (ioRow (.write 0x40) 1) (pads 0 0) = some (pads 0x40 1) ∧
    ran (ioRow (.write 0) 1) (pads 0x40 1) = some (pads 0 1) ∧ thLine (pads 0 0).bus 0 = false ∧
    thLine (pads 0x40 1).bus 0 = true := ⟨ready_test rfl rfl, by decide +kernel⟩

theorem witness_PadReport : 1 < Cfg.test.nPads ∧ 1 < 2 ∧ thLine (pads 0x40 2).bus 0 = true ∧ thLine (pads 0 2).bus 0 = false ∧
    ((List.range 4).map fun k => Memory.get 0 (pads 0 (BitVec.ofNat 2 k)).bus.padPhase 0) = [0, 1, 2, 3] := by
  decide +kernel

theorem witness_RegisterSet : s0.ready ∧ Memory.wf 0 s0.vdp.vr ∧ s0.vdp.pend = false ∧
    ([0xC00004#24, 0xC00007#24].map fun a => (inWin s0.cfg.vdpWin a, (field a 0 5).toNat)) = [(true, 4), (true, 7)] ∧
    regsetWord 0 0 0x80 = 0x80#8 ++ 0x80#8 := ⟨ready0, by decide +kernel⟩

/-- A word and a byte at either end of the control port. -/
theorem ctrlPortWord_test : ctrlPortWord s0.cfg 0x4123 (.wr16 m0 0xC00004 0x4123) ∧
    ctrlPortWord s0.cfg 0x0202 (.wr8Vdpctrl m0 0xC00007 2) :=
  ⟨⟨m0, 0xC00004, by decide +kernel, by decide, by decide, .inl rfl⟩,
    m0, 0xC00007, by decide +kernel, by decide, by decide, .inr (.inr ⟨2, by decide, .inr (.inr rfl)⟩)⟩

/-- A word and a byte at either end of the data port. -/
theorem dataPortWord_test : dataPortWord Cfg.test 0x1234 (.wr16Vdpdata m0 0xC00000 0x1234) ∧
    dataPortWord Cfg.test 0xABAB (.wr8 m0 0xC00003 0xAB) :=
  ⟨⟨m0, 0xC00000, by decide +kernel, by decide, .inr (.inl rfl)⟩,
    m0, 0xC00003, by decide +kernel, by decide, .inr (.inr ⟨0xAB, by decide, .inl rfl⟩)⟩

/-- A first half by word (0x4123) and by byte (0x0202), and a second half of either kind. -/
theorem witness_CommandHalvesAssemble : (s0.ready ∧ s0.vdp.pend = false ∧ (1#2 : BitVec 2) ≠ 2 ∧ (0#2 : BitVec 2) ≠ 2 ∧
      ((0#4).getLsbD 3 = false ∨ (vreg s0.vdp 1).getLsbD 4 = false) ∧
      ((8#4).getLsbD 3 = false ∨ (vreg s0.vdp 1).getLsbD 4 = false)) ∧
    (ctrlPortWord s0.cfg (cmd1Word 1 0x123) (.wr16 m0 0xC00004 0x4123) ∧
      ctrlPortWord s0.cfg (cmd1Word 0 0x202) (.wr8Vdpctrl m0 0xC00007 2) ∧
      ctrlPortWord s0.cfg (cmd2Word 2 0 0 2) (.wr8Vdpctrl m0 0xC00007 2)) ∧
    (onVdp (fun v => { v with pend := true }) s0).ready ∧ (onVdp (fun v => { v with pend := true }) s0).vdp.pend = true ∧
    0x8F02#16 = regsetWord 0 15 2 ∧ 0x4123#16 = cmd1Word 1 0x123 ∧ 0xFF0F#16 = cmd2Word 0xFF 0 3 3 :=
  ⟨⟨ready0, by decide +kernel⟩, ⟨ctrlPortWord_test.1, ctrlPortWord_test.2, ctrlPortWord_test.2⟩, ready_test rfl rfl,
    by decide +kernel⟩

theorem witness_PlainCommand : s0.ready ∧
    ((7#4).getLsbD 3 = false ∨ (vreg s0.vdp 1).getLsbD 4 = false) ∧
    ((8#4).getLsbD 3 = false ∨ (vreg s0.vdp 1).getLsbD 4 = false) ∧
    (Instr.modeVramRd ⟨0, 0, 0, 0, 0, 0⟩).wf = true ∧ (Instr.modeVramWr ⟨1, 0, 0, 0, 0, 0⟩).wf = true ∧
    (Instr.modeCramWr ⟨3, 0, 0, 0, 0, 0⟩).wf = true ∧ (Instr.modeVsramRd ⟨0, 0, 0, 1, 0, 0⟩).wf = true ∧
    (Instr.modeVsramWr ⟨1, 0, 0, 1, 0, 0⟩).wf = true ∧ (Instr.modeCramRd ⟨0, 0, 0, 2, 0, 0⟩).wf = true :=
  ⟨ready0, by decide +kernel⟩

theorem tables_vdp (c : BitVec 6) (a : Half) : Vdp.tables Cfg.test (vdp [(15, 2), (19, 1)] c a).vdp := by
  refine ⟨?_, Memory.table_nil .., Memory.table_nil .., Memory.table_nil .., Memory.table_nil .., Memory.table_nil ..,
    Memory.table_nil .., by show 0 ≤ 256; decide⟩
  show Memory.table 0 32 [(15, 2#8), (19, 1#8)]
  unfold Memory.table Memory.below
  decide

theorem ready_vdp (r : Mem) (c : BitVec 6) (a : Half) : (vdp r c a).ready := ready_test rfl rfl

/-- Each transfer mode, VSRAM indices 39 and 40 about its end, and memories that are not empty. -/
theorem witness_DataWordLandsByMode : (∀ c a, (vdp [(15, 2), (19, 1)] c a).ready ∧
      Vdp.tables Cfg.test (vdp [(15, 2), (19, 1)] c a).vdp ∧ (vdp [(15, 2), (19, 1)] c a).vdp.fillArmed = false) ∧
    ([0xC00000#24, 0xC00003#24].map fun a => (inWin Cfg.test.vdpWin a, (field a 0 5).toNat)) = [(true, 0), (true, 3)] ∧
    [1#6, 0x23, 5, 7].map (fun c => field c 0 4) = [0b0001#4, 0b0011, 0b0101, 0b0111] ∧
    (field 0x4E#16 1 6).toNat < Cfg.test.vsramN ∧ Cfg.test.vsramN ≤ (field 0x50#16 1 6).toNat ∧
    0xABAB#16 = 0xAB#8 ++ 0xAB#8 :=
  ⟨fun c a => ⟨ready_vdp _ c a, tables_vdp c a, rfl⟩, by decide +kernel⟩

theorem witness_DataReadByMode : (∀ c a, (vdp [(15, 2)] c a).ready) ∧
    ([0xC00000#24, 0xC00003#24].map fun a => (inWin Cfg.test.vdpWin a, (field a 0 5).toNat)) = [(true, 0), (true, 3)] ∧
    0 < Cfg.test.vramSize ∧ 0 < Cfg.test.cramN ∧
    [0x20#6, 8, 4, 1].map (fun c => field c 0 4) = [0b0000#4, 0b1000, 0b0100, 0b0001] :=
  ⟨fun c a => ready_vdp _ c a, by decide +kernel⟩

theorem witness_StatusRead : s0.ready ∧
    ([0xC00004#24, 0xC00007#24].map fun a => (inWin s0.cfg.vdpWin a, (field a 0 5).toNat)) = [(true, 4), (true, 7)] :=
  ⟨ready0, by decide +kernel⟩

theorem witness_DmaStartsByMode : (∀ r, (vdp r 0 0).ready) ∧ (vreg (vdp [(23, 0x7F)] 0 0).vdp 23).getLsbD 7 = false ∧
    ((vreg (vdp [(23, 0x80)] 0 0).vdp 23).getLsbD 7 = true ∧ (vreg (vdp [(23, 0x80)] 0 0).vdp 23).getLsbD 6 = false) ∧
    ((vreg (vdp [(23, 0xC0)] 0 0).vdp 23).getLsbD 7 = true ∧ (vreg (vdp [(23, 0xC0)] 0 0).vdp 23).getLsbD 6 = true) ∧
    (8#4).getLsbD 3 = true ∧ (vreg (vdp [(1, 0x10)] 0 0).vdp 1).getLsbD 4 = true :=
  ⟨fun _ => ready_vdp _ _ _, by decide +kernel⟩

/-- A length of one, and the length 0 that stands for 0x10000, in a good VDP. -/
theorem witness_DmaFillsItsAddresses : (vdp [(15, 2), (19, 1)] 0x21 0x100).ready ∧
    Vdp.tables Cfg.test (vdp [(15, 2), (19, 1)] 0x21 0x100).vdp ∧ s0.ready ∧ Vdp.tables Cfg.test s0.vdp ∧
    vreg s0.vdp 19 = 0 ∧ vreg s0.vdp 20 = 0 :=
  ⟨ready_vdp _ _ _, tables_vdp _ _, ready0, tables0, rfl, rfl⟩

theorem witness_ArmedFillRunsAfterItsWord : (let s := fun c => onVdp (fun v => { v with fillArmed := true }) (vdp [] c 0)
    (∀ c, (s c).ready ∧ (s c).vdp.fillArmed = true) ∧ field (s 0x21).vdp.code 0 4 = 0b0001 ∧
    field (s 0x23).vdp.code 0 4 ≠ 0b0001 ∧ dataPortWord (s 0).cfg 0x1234 (.wr16Vdpdata m0 0xC00000 0x1234) ∧
    dataPortWord (s 0).cfg 0xABAB (.wr8 m0 0xC00003 0xAB)) :=
  ⟨fun _ => ⟨ready_test rfl rfl, rfl⟩, by decide +kernel, by decide +kernel, dataPortWord_test⟩

/-- A copy of one byte, and (from reset) one of 0x10000. -/
theorem witness_DmaCopiesWithinVram : (let s := vdp [(15, 2), (19, 1)] 0x20 0x100
    s.ready ∧ Vdp.tables s.cfg s.vdp ∧ ¬ (vreg s.vdp 19 = 0 ∧ vreg s.vdp 20 = 0) ∧
    (vreg s.vdp 20).toNat * 256 + (vreg s.vdp 19).toNat = 1 ∧
    s0.ready ∧ Vdp.tables s0.cfg s0.vdp ∧ vreg s0.vdp 19 = 0 ∧ vreg s0.vdp 20 = 0) :=
  ⟨ready_vdp _ _ _, tables_vdp _ _, by decide +kernel, by decide +kernel, ready0, tables0, rfl, rfl⟩

/-- A transfer of one word with its source in general RAM, and (from reset) one of 0x10000. -/
theorem witness_DmaTransfersFromTheBus : (let s := vdp [(15, 2), (19, 1)] 0x23 0
    s.ready ∧ Vdp.tables s.cfg s.vdp ∧ ¬ (vreg s.vdp 19 = 0 ∧ vreg s.vdp 20 = 0) ∧
    (vreg s.vdp 20).toNat * 256 + (vreg s.vdp 19).toNat = 1 ∧ field s.vdp.code 0 4 = 0b0011 ∧
    (let a : Addr := 0x7F#7 ++ (vreg s.vdp 22 ++ vreg s.vdp 21) ++ 0#1
     inWin s.cfg.ramWin a = true ∧ inWin s.cfg.ramWin (a + 1) = true) ∧
    s0.ready ∧ Vdp.tables s0.cfg s0.vdp ∧ vreg s0.vdp 19 = 0 ∧ vreg s0.vdp 20 = 0) :=
  ⟨ready_vdp _ _ _, tables_vdp _ _, by decide +kernel, by decide +kernel, by decide +kernel, by decide +kernel, ready0,
    tables0, rfl, rfl⟩

/-- The ends of each range of the AUX map. -/
theorem witness_AuxPort : s0.ready ∧ [0x6000#16, 0x60FF, 0x6100, 0x7EFF, 0x7F20, 0x7FFF, 0x7F00, 0x7F1F, 0x8000, 0xFFFF].map
      BitVec.toNat = [0x6000, 0x60FF, 0x6100, 0x7EFF, 0x7F20, 0x7FFF, 0x7F00, 0x7F1F, 0x8000, 0xFFFF] :=
  ⟨ready0, by decide +kernel⟩

theorem witness_InterruptAcknowledge :
    (let s := onVdp (fun v => { v with vr := [(0, 0x10), (1, 0x60)] }) (onSched (fun x => { x with irqH := true, irqV := true }) s0)
    s.ready ∧ (s.sched.irqV = true ∧ (vreg s.vdp 1).getLsbD 5 = true) ∧
    (s.sched.irqH = true ∧ (vreg s.vdp 0).getLsbD 4 = true) ∧ s.cfg.hintLevel ≠ s.cfg.vintLevel ∧
    s0.ready ∧ s0.sched.irqV = false ∧ s0.sched.irqH = false ∧ 7 = (7#3).toNat) :=
  ⟨ready_test rfl rfl, by decide +kernel, by decide +kernel, by decide +kernel, ready0, by decide +kernel⟩

/-- An engine that looks at the level. -/
theorem witness_InterruptAcknowledge_look : (eng ⟨[.look], 20⟩ ⟨[], 0⟩).ready ∧
    (eng ⟨[.look], 20⟩ ⟨[], 0⟩).engines.main = ⟨[.look], 20⟩ :: [] ∧ 20 ≤ 20 := ⟨ready_test rfl rfl, rfl, by decide⟩

/-- A recorded call for each clause: good events of either device, and every first breach. -/
theorem witness_EngineContract : (∀ m a, (eng m a).ready ∧ (eng m a).engines.get .main = m :: [] ∧
      (eng m a).engines.get .aux = a :: []) ∧
    (let m : List Event := [.op 3 (.rd8 0), .look, .host (.mute true), .op 5 (.ack 6)]
     let a : List Event := [.op 0 (.ard8 0), .op 5 (.awr8 0x8000 1)]
     (m.all (ownEvent .main) = true ∧ (eventStamps m).Pairwise (· ≤ ·) ∧ (∀ t ∈ eventStamps m, t ≤ 5) ∧
       ∃ t ∈ eventStamps m, 4 < t) ∧ a.all (ownEvent .aux) = true ∧ (eventStamps a).Pairwise (· ≤ ·)) ∧
    (∃ x ∈ eventStamps [.op 3 (.rd8 0)], 2 < x) ∧ engineRow .main 3 (.ard8 0) = none ∧
    engineRow .main 3 (.awr8 0 1) = none ∧ engineRow .aux 3 (.rd16 0) = none ∧ engineRow .aux 3 (.ack 6) = none ∧
    5 ≤ 20 ∧ 20 < 21 :=
  ⟨fun _ _ => ⟨ready_test rfl rfl, rfl, rfl⟩, by decide, by decide, rfl, rfl, rfl, rfl, by decide⟩

theorem witness_RunToArbitrates : (odo 20 s0).ready ∧ 20 ≤ (odo 20 s0).sched.odo.get .main ∧
    (eng ⟨[], 15⟩ ⟨[], 0⟩).ready ∧ (eng ⟨[], 15⟩ ⟨[], 0⟩).sched.odo.get .main < 20 ∧
    (eng ⟨[], 15⟩ ⟨[], 0⟩).engines.get .main = [⟨[], 15⟩] ∧ 15 ≤ 20 - (eng ⟨[], 15⟩ ⟨[], 0⟩).sched.odo.get .main ∧
    20 - (eng ⟨[], 21⟩ ⟨[], 0⟩).sched.odo.get .main < 21 :=
  ⟨ready_test rfl rfl, by decide, ready_test rfl rfl, by decide, rfl, by decide, by decide⟩

/-- A state whose engines do nothing for the next `n` calls, at line `L`. -/
def idleAt (n L : Nat) : State :=
  { onSched (fun x => { x with line := L }) s0 with
    engines := ⟨List.replicate n ⟨[], 0⟩, List.replicate n ⟨[], 0⟩⟩ }

theorem idle_idleAt (n L : Nat) : (idleAt n L).idle n := by
  intro d
  cases d <;> simp [idleAt, PerDev.get]

theorem witness_SlicesReachTheLineEnd : (idleAt 2 0).ready ∧ (idleAt 2 0).idle 2 ∧
    ∀ d, (idleAt 2 0).sched.odo.get d ≤ (idleAt 2 0).sched.line * ((idleAt 2 0).cfg.cpl.get d).get (idleAt 2 0).sched.std :=
  ⟨ready_test rfl rfl, idle_idleAt 2 0, fun d => by cases d <;> decide⟩

/-- No line left, the last line, the last Active line, and the snapshot's line. -/
theorem witness_LineStepAdvances : (∀ L, (idleAt 2 L).ready ∧ (idleAt 2 L).idle 2) ∧
    Cfg.test.linesTotal.get .ntsc ≤ (idleAt 2 8).sched.line ∧ (idleAt 2 7).sched.line < Cfg.test.linesTotal.get .ntsc ∧
    (idleAt 2 4).sched.line + 1 = Cfg.test.vblankStart.get .ntsc ∧ (idleAt 2 2).sched.line = Cfg.test.snapshotLine :=
  ⟨fun L => ⟨ready_test rfl rfl, idle_idleAt 2 L⟩, by decide⟩

theorem witness_FrameRunsEveryLine : ((quiet (idleAt 16 0)).ready ∧
      (sampleCell (Config.flagDraw .cancel) (quiet (idleAt 16 0)).host.cancel).1 = false ∧
      (sampleCell (Config.flagDraw .pal) (quiet (idleAt 16 0)).host.pal).1 = false ∧
      (quiet (idleAt 16 0)).idle (2 * Cfg.test.linesTotal.get .ntsc)) ∧
    { s0 with host := { s0.host with cancel := stays true } }.ready ∧
    (sampleCell (Config.flagDraw .cancel) (stays true)).1 = true :=
  ⟨⟨ready_test rfl rfl, rfl, rfl, idle_idleAt 16 0⟩, ready_test rfl rfl, rfl⟩

theorem witness_FrameStart : s0.ready := ready0

/-- A pad in phase 0, one below the limit and one at it. -/
theorem witness_PadStepsOfALine : (let s := onBus (fun b => { b with padPhase := [(1, 2)], padTimeout := [(1, 1)] }) s0
    let t := onBus (fun b => { b with padPhase := [(1, 2)], padTimeout := [(1, 2)] }) s0
    s.ready ∧ t.ready ∧ Memory.wf 0 s.bus.padPhase ∧ Memory.wf 0 s.bus.padTimeout ∧ Memory.wf 0 t.bus.padTimeout ∧
    Memory.get 0 s.bus.padPhase 0 = 0 ∧ 1 < s.cfg.nPads ∧ Memory.get 0 s.bus.padPhase 1 ≠ 0 ∧
    Memory.get 0 s.bus.padTimeout 1 + 1 < s.cfg.padTimeoutLines ∧
    s.cfg.padTimeoutLines ≤ Memory.get 0 t.bus.padTimeout 1 + 1) :=
  ⟨ready_test rfl rfl, ready_test rfl rfl, by decide +kernel⟩

/-- A timer not due, one that moves by its period, one that moves past the time. -/
theorem witness_SoundGlueTime : t3.ready ∧
    (let now := t3.sched.odo.main * 1000000 / t3.cfg.clockHz.main.get t3.sched.std
     ¬ (t3.snd.tmA.run = true ∧ t3.snd.tmA.deadlineUs ≤ now) ∧
     (let m : Timer := ⟨true, 18, 100⟩
      m.run = true ∧ m.deadlineUs ≤ now ∧ now < m.deadlineUs + m.reloadUs) ∧
     (let m : Timer := ⟨true, 18, 82⟩
      m.run = true ∧ m.deadlineUs ≤ now ∧ m.deadlineUs + m.reloadUs ≤ now)) := ⟨ready_test rfl rfl, by decide +kernel⟩

theorem witness_HorizontalStep : (let s := fun L n => onSched (fun x => { x with line := L, hcnt := n }) s0
    (∀ L n, (s L n).ready) ∧ ¬ (1 ≤ (s 0 0).sched.line ∧ (s 0 0).sched.line < 5) ∧
    (1 ≤ (s 1 1).sched.line ∧ (s 4 0).sched.line < 5) ∧ Cfg.test.activeStart.get .ntsc = 1 ∧
    Cfg.test.vblankStart.get .ntsc = 5 ∧ 0 ≤ (s 1 1).sched.hcnt - 1 ∧ (s 4 0).sched.hcnt - 1 < 0) :=
  ⟨fun _ _ => ready_test rfl rfl, by decide +kernel⟩

theorem witness_VblankBoundaryAndSnapshot : s0.ready ∧ 63 < 64 ∧ 3 < 4 ∧ Cfg.test.cramN ≤ 64 := ⟨ready0, by decide⟩

theorem witness_FrameEndHandsOver : s0.ready ∧ Snd.inv s0.cfg s0.snd ∧
    (sampleCell (Config.flagDraw .mute) { s0.host with mute := stays true }.mute).1 = true ∧
    (sampleCell (Config.flagDraw .mute) { s0.host with mute := stays false }.mute).1 = false ∧
    { s0 with host := { s0.host with mute := stays true } }.ready := ⟨ready0, sndInv0, rfl, rfl, ready_test rfl rfl⟩

/-- Lines -1, 0, 3 and 4, with the display off. -/
theorem witness_BlankLine : s0.ready ∧ Memory.wf 0 s0.sched.fb ∧ (-1 : Int) < 0 ∧
    (s0.cfg.vblankStart.get s0.sched.std : Int) - s0.cfg.activeStart.get s0.sched.std = 4 ∧
    (vreg s0.vdp 1).getLsbD 6 = false := ⟨ready0, by decide +kernel⟩

theorem witness_DrawnLine : (let s := onVdp (fun v => { v with vr := [(1, 0x40)] }) s0
    s.ready ∧ Vdp.cacheInv s.cfg s.vdp ∧ Memory.wf 0 s.sched.fb ∧
    (3 : Int) < (s.cfg.vblankStart.get s.sched.std : Int) - s.cfg.activeStart.get s.sched.std ∧
    (vreg s.vdp 1).getLsbD 6 = true ∧ 0 < s.cfg.vramSize ∧ 0 < s.cfg.cramN) :=
  ⟨ready_test rfl rfl, ⟨nofun, nofun, fun _ _ => rfl, fun _ _ => rfl⟩, by decide +kernel⟩

/-- Image sizes about both limits; an image with save RAM (from 0x200001 to 0x2001FE), and one without. -/
theorem witness_LoadAndUnplug : s0.ready ∧ s0.sched.inFrame = false ∧ 0x1FF < s0.cfg.minImageSize ∧
    s0.cfg.minImageSize ≤ 0x200 ∧ 0x400000 ≤ s0.cfg.cartEnd + 1 ∧ s0.cfg.cartEnd + 1 < 0x400001 ∧
    (let g := img [(0x1B5, 0x20), (0x1B7, 1)] [(0x1B9, 0x20), (0x1BA, 1), (0x1BB, 0xFE)]
     1 ≤ g.len ∧ imageByte g 0x1B0 = 0x52 ∧ imageByte g 0x1B1 = 0x41 ∧ (be32 g 0x1B4).toNat = 0x200001 ∧
     (be32 g 0x1B8).toNat = 0x2001FE ∧ 0x2001FF ≤ s0.cfg.cartEnd ∧ (saveRamOf s0.cfg g).present = true) ∧
    (saveRamOf s0.cfg ⟨0x200, []⟩).present = false := ⟨ready0, by decide +kernel⟩

/-- Words at 0x200, at the last word of the image, and beyond it; a word with a patch. -/
theorem witness_PatchToggles : h12.ready ∧ h12.sched.inFrame = false ∧ Memory.wf 0 h12.bus.rom ∧
    h12.bus.patches.Pairwise (fun x y => x.1 < y.1) ∧ (∀ q k, (k, q) ∉ h12.bus.patches) ∧
    0xFFFE + 1 < h12.bus.romLen ∧ h12.bus.romLen ≤ 0x10000 + 1 ∧
    (0x201#24).toNat - (0x201#24).toNat % 2 = (0x200#24).toNat - (0x200#24).toNat % 2 ∧
    h12p.ready ∧ h12p.sched.inFrame = false ∧ Memory.wf 0 h12p.bus.rom ∧
    h12p.bus.patches.Pairwise (fun x y => x.1 < y.1) ∧ ((0x200#24).toNat, 0x4E71#16) ∈ h12p.bus.patches :=
  ⟨ready_test rfl rfl, rfl, by decide +kernel, List.Pairwise.nil, nofun, by decide +kernel, by decide +kernel,
    by decide +kernel, ready_test rfl rfl, rfl, by decide +kernel, List.pairwise_singleton .., by decide +kernel⟩

theorem witness_MailboxWrites : s0.ready ∧ (onSched (fun x => { x with inFrame := true }) s0).ready :=
  ⟨ready0, ready_test rfl rfl⟩

end Sys2Proof.Tests
end

/-! ### The parameter (10_state.md R30): nothing the model does changes the configuration. -/

namespace Sys2Proof.Machine

/-- What a guarded operation answers has the configuration it was asked in, if the operation keeps it. -/
theorem guarded_cfg {s t : State} {f : State → State} (h : guarded s f = .next t)
    (hf : ∀ x, (f x).cfg = x.cfg) : t.cfg = s.cfg := by
  obtain ⟨-, rfl⟩ := guarded_next.mp h
  exact hf s

/-- The same for the operations that run outside a frame only. -/
theorem guardedHost_cfg {s t : State} {f : State → State} (h : guardedHost s f = .next t)
    (hf : ∀ x, (f x).cfg = x.cfg) : t.cfg = s.cfg := by
  obtain ⟨-, -, rfl⟩ := guardedHost_next.mp h
  exact hf s

/-- Going on after `s` keeps the configuration `s` was reached with. -/
theorem proceed_cfg {s r : State} {f : State → State} (hs : s.cfg = r.cfg) (hf : (f s).cfg = s.cfg) :
    (proceed s f).cfg = r.cfg :=
  proceed_keeps (P := fun t => t.cfg = r.cfg) hs hf.trans

/-! The devices: the buses, the control port, the acknowledge, the I/O registers. -/

@[simp] theorem busRd8_cfg (a : Addr) (s : State) : (busRd8 a s).2.cfg = s.cfg := (busRd8_only a s).cfg

@[simp] theorem busRd16_cfg (a : Addr) (s : State) : (busRd16 a s).2.cfg = s.cfg := (busRd16_only a s).cfg

@[simp] theorem busWr8_cfg (now : Nat) (a : Addr) (v : Byte) (s : State) : (busWr8 now a v s).cfg = s.cfg :=
  (busWr8_only now a v s).cfg

@[simp] theorem busWr16_cfg (now : Nat) (a : Addr) (v : Half) (s : State) : (busWr16 now a v s).cfg = s.cfg :=
  (busWr16_only now a v s).cfg

@[simp] theorem auxRd8_cfg (a : AuxAddr) (s : State) : (auxRd8 a s).2.cfg = s.cfg := (auxRd8_only a s).cfg

@[simp] theorem auxWr8_cfg (now : Nat) (a : AuxAddr) (v : Byte) (s : State) : (auxWr8 now a v s).cfg = s.cfg :=
  (auxWr8_only now a v s).cfg

@[simp] theorem ctrlPortWrite16_cfg (w : Half) (s : State) : (ctrlPortWrite16 w s).cfg = s.cfg :=
  (ctrlPortWrite16_only w s).cfg

@[simp] theorem vdpCommand_cfg (w : CmdWord) (s : State) : (vdpCommand w s).cfg = s.cfg := (vdpCommand_only w s).cfg

@[simp] theorem dmaBus_cfg (hi : BitVec 7) (s : State) : (dmaBus hi s).cfg = s.cfg := (dmaBus_only hi s).cfg

@[simp] theorem dmaStart_cfg (s : State) : (dmaStart s).cfg = s.cfg := (dmaStart_only s).cfg

@[simp] theorem ioAccess_cfg (i : Nat) (k : Access) (s : State) : (ioAccess i k s).cfg = s.cfg := by
  cases k <;> rfl

@[simp] theorem ioEvenAccess_cfg (a : Addr) (k : Access) (s : State) : (ioEvenAccess a k s).cfg = s.cfg := by
  cases k <;> rfl

theorem OnlyCall.cfg {s t : State} (h : OnlyCall s t) : t.cfg = s.cfg := by
  unfold OnlyCall at h
  rw [h]

@[simp] theorem intAck_cfg (n : Nat) (s : State) : (intAck n s).2.cfg = s.cfg := (intAck_call n s).cfg

/-! The engines' calls and the arbiter (41_frame_scheduler.md R280 to R284). -/

@[simp] theorem callBody_cfg (d : Device) (b : Nat) (s : State) : (callBody d b s).2.2.cfg = s.cfg :=
  (callBody_call d b s).cfg

@[simp] theorem checkReturn_cfg (d : Device) (b c last : Nat) (s : State) :
    (checkReturn d b c last s).cfg = s.cfg := by
  unfold checkReturn
  split
  · rfl
  · split <;> rfl

@[simp] theorem execCall_cfg (d : Device) (b : Nat) (s : State) : (execCall d b s).2.cfg = s.cfg :=
  proceed_cfg (callBody_cfg d b s) (checkReturn_cfg ..)

@[simp] theorem executeOp_cfg (d : Device) (b : Nat) (s : State) : (executeOp d b s).cfg = s.cfg :=
  proceed_cfg (execCall_cfg d b s) rfl

@[simp] theorem runTo_cfg (d : Device) (T : Nat) (s : State) : (runTo d T s).cfg = s.cfg := by
  unfold runTo
  dsimp only
  split
  · exact proceed_cfg (execCall_cfg ..) rfl
  · rfl

@[simp] theorem runBoth_cfg (stop : State → Device → Nat) (s : State) : (runBoth stop s).cfg = s.cfg :=
  proceed_cfg (runTo_cfg ..) (runTo_cfg ..)

/-! The steps of a line and of a frame (41_frame_scheduler.md R264 to R290). -/

@[simp] theorem padTimeoutStep_cfg (s : State) : (padTimeoutStep s).cfg = s.cfg := rfl

@[simp] theorem padSample_cfg (s : State) : (padSample s).cfg = s.cfg := rfl

@[simp] theorem timerStep_cfg (s : State) : (timerStep s).cfg = s.cfg := rfl

@[simp] theorem drawStep_cfg (n : Int) (s : State) : (drawStep n s).cfg = s.cfg := rfl

@[simp] theorem hCount_cfg (s : State) : (hCount s).cfg = s.cfg := by
  unfold hCount
  split <;> rfl

@[simp] theorem hStep_cfg (s : State) : (hStep s).cfg = s.cfg := by
  unfold hStep
  split
  · simp
  · rfl

@[simp] theorem slices_cfg (s : State) : (slices s).cfg = s.cfg :=
  proceed_cfg (runBoth_cfg ..) (proceed_cfg (runBoth_cfg ..) rfl)

@[simp] theorem lineTail_cfg (s : State) : (lineTail s).cfg = s.cfg := by
  unfold lineTail
  dsimp only
  split <;> split <;> rfl

@[simp] theorem lineStep_cfg (s : State) : (lineStep s).cfg = s.cfg :=
  proceed_cfg (by simp) (lineTail_cfg _)

@[simp] theorem lineStepIfLeft_cfg (s : State) : (lineStepIfLeft s).cfg = s.cfg := by
  unfold lineStepIfLeft
  split
  · exact lineStep_cfg s
  · rfl

@[simp] theorem lineLoop_cfg (n : Nat) (s : State) : (lineLoop n s).cfg = s.cfg := by
  induction n generalizing s with
  | zero => rfl
  | succ n ih => exact proceed_cfg (lineStepIfLeft_cfg s) (ih _)

@[simp] theorem finalizeStep_cfg (s : State) : (finalizeStep s).2.cfg = s.cfg := by
  unfold finalizeStep
  exact setSnd_cfg ..

@[simp] theorem frameEnd_cfg (s : State) : (frameEnd s).cfg = s.cfg := by simp [frameEnd]

@[simp] theorem runFrame_cfg (s : State) : (runFrame s).cfg = s.cfg := by
  unfold runFrame
  dsimp only
  split
  · rfl
  · exact proceed_cfg (lineLoop_cfg ..) (frameEnd_cfg _)

/-! The host operations (45_cartridge_host.md). -/

@[simp] theorem hostLoad_cfg (g : Image) (s : State) : (hostLoad g s).cfg = s.cfg := by
  unfold hostLoad
  split <;> rfl

/-- No operation changes the configuration. The rows are grouped by the function that gives them their meaning. -/
theorem exec_cfg {i : Instr} {s t : State} (h : exec i s = .next t) : t.cfg = s.cfg := by
  unfold exec at h
  cases i with
  | rd8 _ a | rd8Sram _ a | rd8Rom _ a | rd8Cartopen _ a | rd8Zram _ a | rd8Fm _ a | rd8Banksel _ a | rd8Io _ a
  | rd8Sramctl _ a | rd8Vdp _ a | rd8Ram _ a | rd8Open _ a | rd8Vdpdata _ a | rd8Vdpctrl _ a | rd8Psg _ a
  | rd8Vdpnone _ a | rd8FmAny _ a => exact guarded_cfg h (busRd8_cfg a)
  | wr8 x a v | wr8Sram x a v | wr8Rom x a v | wr8Cartopen x a v | wr8Zram x a v | wr8Fm x a v | wr8Banksel x a v
  | wr8Io x a v | wr8Sramctl x a v | wr8Vdp x a v | wr8Ram x a v | wr8Open x a v | wr8Vdpdata x a v
  | wr8Vdpctrl x a v | wr8Psg x a v | wr8Vdpnone x a v | wr8FmAddr0 x a v | wr8FmData0 x a v | wr8FmAddr1 x a v
  | wr8FmData1 x a v => exact guarded_cfg h fun y => busWr8_cfg (ctxNow x y) a v y
  | rd16 _ a | rd16Vdpdata _ a | rd16Vdpctrl _ a => exact guarded_cfg h (busRd16_cfg a)
  | wr16 x a v | wr16Vdpdata x a v | wr16Vdpctrl x a v =>
    exact guarded_cfg h fun y => busWr16_cfg (ctxNow x y) a v y
  | ardZram a | ardFm a | ardBanksel a | ardVdpwin a | ardBankwin a | ardNone a =>
    exact guarded_cfg h (auxRd8_cfg a)
  | awrZram a v n | awrFm a v n | awrBanksel a v n | awrVdpwin a v n | awrBankwin a v n | awrNone a v n =>
    exact guarded_cfg h fun y => auxWr8_cfg (nowUs y .aux n) a v y
  | ioVersion k | ioData0 k | ioData1 k | ioData2 k | ioCtrl0 k | ioCtrl1 k | ioCtrl2 k | ioSer0 k | ioSer1 k
  | ioSer2 k | ioSer3 k | ioSer4 k | ioSer5 k | ioSer6 k | ioSer7 k | ioSer8 k =>
    exact guarded_cfg h (ioAccess_cfg _ k)
  | ioEven a k => exact guarded_cfg h (ioEvenAccess_cfg a k)
  | sramctlValue | bankselValue => exact guarded_cfg h fun _ => rfl
  | fmregMode | fmregDacdata | fmregDacen | fmregTaHi | fmregTaLo | fmregTb | fmregOther | modeValue | dacenValue
  | dacdataValue | psgValue => exact guarded_cfg h fun _ => rfl
  | regset | cmd1 | cmd2 => exact guarded_cfg h (ctrlPortWrite16_cfg _)
  | command w | modeVramRd w | modeVramWr w | modeCramWr w | modeVsramRd w | modeVsramWr w | modeCramRd w
  | modeInvalid w | dmaflag w => exact guarded_cfg h (vdpCommand_cfg w)
  | dmaBus hi => exact guarded_cfg h (dmaBus_cfg hi)
  | dmastart => exact guarded_cfg h dmaStart_cfg
  | dmaFill | dmaCopy | vdataWr | vdataRd | vstat => exact guarded_cfg h fun _ => rfl
  | execute d b => exact guarded_cfg h (executeOp_cfg d b)
  | ackV => exact guarded_cfg h fun y => intAck_cfg y.cfg.vintLevel y
  | ackH => exact guarded_cfg h fun y => intAck_cfg y.cfg.hintLevel y
  | ackSpurious l => exact guarded_cfg h (intAck_cfg l.toNat)
  | runframe => exact guarded_cfg h runFrame_cfg
  | frameend => exact guarded_cfg h frameEnd_cfg
  | finalize => exact guarded_cfg h finalizeStep_cfg
  | linestep => exact guarded_cfg h lineStepIfLeft_cfg
  | hstep => exact guarded_cfg h hStep_cfg
  | slices => exact guarded_cfg h slices_cfg
  | runto d T => exact guarded_cfg h (runTo_cfg d T)
  | framestart | padtimeout | padsample | timerstep | snapshot | vblankboundary | drawline | timertick
  | soundframestart | timerrebase => exact guarded_cfg h fun _ => rfl
  | hostLoad g => exact guardedHost_cfg h (hostLoad_cfg g)
  | hostUnplug | hostPatch | hostReset => exact guardedHost_cfg h fun _ => rfl
  | hostSetpad | hostSetmute | hostSetcancel | hostSetpal => exact guarded_cfg h fun _ => rfl

/-- No step changes the configuration: it runs an operation, on the state itself or with part of its queue read. -/
theorem step_cfg {s t : State} (h : step s = .next t) : t.cfg = s.cfg := by
  unfold step at h
  split at h
  · exact exec_cfg h
  · split at h
    · exact (exec_cfg h).trans rfl
    · cases h

/-- Settles O8: by cases on the operation; a step runs one operation. -/
theorem configurationIsConstant : Obligations.ConfigurationIsConstant :=
  ⟨fun _ _ _ => exec_cfg, fun _ _ => step_cfg⟩

end Sys2Proof.Machine

/-! ### The two resets (10_state.md R62). -/

namespace Sys2Proof.Machine

/-- What a table made of a list reads as at an index of the list. -/
theorem Memory.get_ofList {α : Type} [DecidableEq α] (d : α) (vs : List α) :
    ∀ (a o : Nat) (h : o < vs.length), get d (ofList d a vs) (a + o) = vs[o] := by
  induction vs with
  | nil => exact fun _ _ h => absurd h (by simp)
  | cons v vs ih =>
    intro a o h
    have below : get d (ofList d (a + 1) vs) a = d := get_of_lt d _ a fun c hc => (mem_ofList d vs _ c hc).1
    cases o with
    | zero =>
      by_cases hv : v = d
      · simp [ofList, hv, below]
      · simp [ofList, hv, get]
    | succ o =>
      have step := ih (a + 1) o (by simpa using h)
      rw [Nat.add_right_comm, Nat.add_assoc] at step
      by_cases hv : v = d
      · simpa [ofList, hv] using step
      · simpa [ofList, hv, get] using step

theorem Memory.get_ofList_zero {α : Type} [DecidableEq α] (d : α) (vs : List α) {o : Nat} (h : o < vs.length) :
    get d (ofList d 0 vs) o = vs[o] := by
  simpa using get_ofList d vs 0 o h

theorem Memory.get_allSet {n o : Nat} (h : o < n) : get false (allSet n) o = true :=
  (get_ofList_zero false _ (by simpa using h)).trans (List.getElem_replicate _)

theorem Memory.table_allSet (n : Nat) : table false n (allSet n) := table_ofList _ _ _ (by simp)

/-! A reset of either kind leaves each group good. -/

theorem Sched.inv_fresh (c : Cfg) (x : Std) : Sched.inv c (Sched.fresh c x) :=
  ⟨Nat.zero_le _, by simp [Sched.fresh], Memory.table_nil 0 256, (Memory.table_nil 0 0).1⟩

theorem SaveRam.inv_absent (c : Cfg) : SaveRam.inv c .absent := ⟨nofun, fun _ => rfl⟩

theorem Vdp.tables_fresh (c : Cfg) : Vdp.tables c (Vdp.fresh c) :=
  ⟨Memory.table_nil .., Memory.table_nil .., Memory.table_nil .., Memory.table_nil .., Memory.table_allSet _,
    Memory.table_allSet _, Memory.table_nil .., Nat.zero_le _⟩

/-- Both global dirty bits are set, so neither cache is claimed to be valid (43_vdp_compositor.md R394). -/
theorem Vdp.cacheInv_fresh (c : Cfg) : Vdp.cacheInv c (Vdp.fresh c) :=
  ⟨nofun, nofun, fun _ _ => rfl, fun _ _ => rfl⟩

theorem Snd.inv_fresh (c : Cfg) (log : List SynthEntry) : Snd.inv c (Snd.fresh log) :=
  ⟨Memory.table_nil .., Memory.table_nil .., by simp [Snd.fresh, field],
    ⟨Int.le_refl _, by simp only [Snd.fresh]; omega⟩, Memory.table_nil ..⟩

/-- The stub ROM of a well-formed configuration is not empty and fits the cartridge window (00_scope.md R18, log 17). -/
theorem Cfg.stubRom_length_of_wf {c : Cfg} (h : c.wf = true) :
    1 ≤ c.stubRom.length ∧ c.stubRom.length ≤ c.cartEnd + 1 := by
  simp only [Cfg.wf, Cfg.sizesWf, Bool.and_eq_true, decide_eq_true_eq] at h
  obtain ⟨-, ⟨-, hne, hfit⟩, -⟩ := h
  exact ⟨List.length_pos_iff.mpr hne, hfit⟩

theorem Bus.inv_fresh {c : Cfg} (h : c.wf = true) : Bus.inv c (Bus.fresh c) :=
  have ⟨hpos, hfit⟩ := Cfg.stubRom_length_of_wf h
  ⟨⟨hpos, hfit, Memory.table_ofList _ _ _ (Nat.le_refl _)⟩, SaveRam.inv_absent c, Memory.table_nil ..,
    Memory.table_nil .., Memory.table_nil .., Memory.table_nil .., Memory.table_nil .., Memory.table_nil ..,
    Memory.table_nil .., List.Pairwise.nil, nofun⟩

theorem State.inv_powerOn {c : Cfg} (h : c.wf = true) : (State.powerOn c).Inv :=
  ⟨h, Sched.inv_fresh c .ntsc, Bus.inv_fresh h, Vdp.tables_fresh c, Vdp.cacheInv_fresh c, Snd.inv_fresh c []⟩

/-- Settles O5: group by group; `State.reset` is the power-on state of a well-formed configuration. -/
theorem resetIsGood : Obligations.ResetIsGood :=
  ⟨fun _ => State.inv_powerOn, State.inv_powerOn (c := Cfg.test) rfl⟩

/-- Settles O11: a table nothing is listed in reads as its unlisted value; the stub ROM and the dirty bits are lists
read back. -/
theorem powerOnTable : Obligations.PowerOnTable := by
  intro c s
  have rom : ∀ o (h : o < c.stubRom.length), Memory.get 0 s.bus.rom o = c.stubRom[o] := fun _ =>
    Memory.get_ofList_zero 0 c.stubRom
  have dirtyVram : ∀ g, g < c.vramSize / 256 → Memory.get false s.vdp.dirtyVram g = true :=
    fun _ => Memory.get_allSet
  have dirtyCram : ∀ e, e < c.cramN → Memory.get false s.vdp.dirtyCram e = true := fun _ => Memory.get_allSet
  exact ⟨rfl, ⟨rfl, rfl, rfl, rfl⟩, rom, ⟨rfl, rfl, rfl, rfl⟩, ⟨rfl, rfl, rfl⟩,
    fun _ => ⟨rfl, rfl, rfl, rfl, rfl, rfl, rfl⟩, fun _ => ⟨rfl, rfl, rfl, rfl, rfl⟩,
    ⟨rfl, rfl, dirtyVram, dirtyCram⟩, ⟨rfl, rfl, rfl, rfl, rfl, rfl, rfl, rfl, rfl⟩,
    fun _ _ => ⟨rfl, rfl, rfl⟩, ⟨rfl, rfl, rfl, rfl, rfl, rfl, rfl⟩, rfl⟩

/-- RESET is performed by a ready machine outside a frame (45_cartridge_host.md R470, R484). -/
theorem exec_hostReset {s : State} (h : s.ready) (hf : s.sched.inFrame = false) :
    exec .hostReset s = .next (reply .none (systemReset s)) :=
  guardedHost_ready h hf fun x => reply .none (systemReset x)

/-- Settles O12: the reset is performed, and `systemReset` is column S field by field. -/
theorem systemResetTable : Obligations.SystemResetTable := fun _ hready hframe =>
  (exec_hostReset hready hframe).trans rfl

end Sys2Proof.Machine

/-! ### Word accesses (20_memory.md R104, 40_bus_operations.md R201, R203): two byte accesses in order. The byte
accesses of the statement each set the response, the two inside a word access do not; so no bus operation may read
it. -/

namespace Sys2Proof.Machine

/-! No bus operation reads the response of the operation before it. -/

@[simp] theorem reply_reply (r q : Resp) (s : State) : reply r (reply q s) = reply r s := rfl

@[simp] theorem setVdp_reply (r : Resp) (s : State) (v : Vdp) : setVdp (reply r s) v = reply r (setVdp s v) := rfl

@[simp] theorem ctxNow_reply (x : Ctx) (r : Resp) (s : State) : ctxNow x (reply r s) = ctxNow x s := rfl

@[simp] theorem vdpBlockRead8_reply (a : Addr) (o : BitVec 5) (r : Resp) (s : State) :
    vdpBlockRead8 a o (reply r s) = ((vdpBlockRead8 a o s).1, reply r (vdpBlockRead8 a o s).2) := by
  unfold vdpBlockRead8
  cases vdpPort o <;> rfl

@[simp] theorem ioBlockRead8_reply (a : Addr) (o : BitVec 5) (r : Resp) (s : State) :
    ioBlockRead8 a o (reply r s) = ((ioBlockRead8 a o s).1, reply r (ioBlockRead8 a o s).2) := by
  unfold ioBlockRead8
  cases o.getLsbD 0 <;> rfl

@[simp] theorem busRd8_reply (a : Addr) (r : Resp) (s : State) :
    busRd8 a (reply r s) = ((busRd8 a s).1, reply r (busRd8 a s).2) := by
  unfold busRd8
  rw [reply_cfg, reply_bus]
  cases region s.cfg s.bus a with
  | vdp o => exact vdpBlockRead8_reply a o r s
  | io o => exact ioBlockRead8_reply a o r s
  | rom | sram | ram | zram | fm | banksel | sramctl | unmapped => rfl

@[simp] theorem splitRd16_reply (a : Addr) (r : Resp) (s : State) :
    splitRd16 a (reply r s) = ((splitRd16 a s).1, reply r (splitRd16 a s).2) := by
  simp only [splitRd16, busRd8_reply]

@[simp] theorem busRd16_reply (a : Addr) (r : Resp) (s : State) :
    busRd16 a (reply r s) = ((busRd16 a s).1, reply r (busRd16 a s).2) := by
  unfold busRd16
  rw [reply_cfg, reply_bus]
  cases region s.cfg s.bus a with
  | vdp o =>
    dsimp only
    cases vdpPort o with
    | data | ctrl => rfl
    | psg | none => exact splitRd16_reply a r s
  | rom | sram | ram | zram | fm | banksel | io | sramctl | unmapped => exact splitRd16_reply a r s

@[simp] theorem dmaBusLoop_reply (hi : BitVec 7) (r : Resp) (n : Nat) :
    ∀ (lo : Half) (s : State), dmaBusLoop hi n lo (reply r s) =
      ((dmaBusLoop hi n lo s).1, reply r (dmaBusLoop hi n lo s).2) := by
  induction n with
  | zero => exact fun _ _ => rfl
  | succ n ih =>
    intro lo s
    simp only [dmaBusLoop, busRd16_reply, reply_cfg, reply_vdp, setVdp_reply, ih]

@[simp] theorem dmaStart_reply (r : Resp) (s : State) : dmaStart (reply r s) = reply r (dmaStart s) := by
  unfold dmaStart
  rw [reply_vdp]
  cases dmaModeOf (vreg s.vdp 23) with
  | bus => simp only [dmaBus, dmaBusLoop_reply, reply_vdp, setVdp_reply]
  | fill | copy => rfl

@[simp] theorem vdpCommand_reply (w : CmdWord) (r : Resp) (s : State) :
    vdpCommand w (reply r s) = reply r (vdpCommand w s) := by
  simp only [vdpCommand, reply_vdp, setVdp_reply, dmaStart_reply]
  exact (apply_ite (reply r) _ _ _).symm

@[simp] theorem ctrlPortWrite16_reply (w : Half) (r : Resp) (s : State) :
    ctrlPortWrite16 w (reply r s) = reply r (ctrlPortWrite16 w s) := by
  simp only [ctrlPortWrite16, reply_vdp, setVdp_reply, vdpCommand_reply, apply_ite (reply r)]

@[simp] theorem vdpBlockWrite8_reply (now : Nat) (o : BitVec 5) (v : Byte) (r : Resp) (s : State) :
    vdpBlockWrite8 now o v (reply r s) = reply r (vdpBlockWrite8 now o v s) := by
  unfold vdpBlockWrite8
  cases vdpPort o with
  | ctrl => exact ctrlPortWrite16_reply _ r s
  | data | psg | none => rfl

@[simp] theorem ioBlockWrite8_reply (o : BitVec 5) (v : Byte) (r : Resp) (s : State) :
    ioBlockWrite8 o v (reply r s) = reply r (ioBlockWrite8 o v s) := by
  unfold ioBlockWrite8
  cases o.getLsbD 0 <;> rfl

@[simp] theorem busWr8_reply (now : Nat) (a : Addr) (v : Byte) (r : Resp) (s : State) :
    busWr8 now a v (reply r s) = reply r (busWr8 now a v s) := by
  unfold busWr8
  rw [reply_cfg, reply_bus]
  cases region s.cfg s.bus a with
  | vdp o => exact vdpBlockWrite8_reply now o v r s
  | io o => exact ioBlockWrite8_reply o v r s
  | rom | sram | ram | zram | fm | banksel | sramctl | unmapped => rfl

/-! Where a word access is split. -/

theorem cartRegion_ne_vdp (b : Bus) (a : Addr) (o : BitVec 5) : cartRegion b a ≠ .vdp o := by
  unfold cartRegion
  split
  · nofun
  · split <;> nofun

/-- Only an address in the VDP window decodes to the VDP block, at its offset there (20_memory.md R110). -/
theorem region_vdp {c : Cfg} {b : Bus} {a : Addr} {o : BitVec 5} (h : region c b a = .vdp o) :
    inWin c.vdpWin a = true ∧ o = field a 0 5 := by
  unfold region at h
  split at h
  · exact absurd h (cartRegion_ne_vdp b a o)
  · iterate 5 (split at h; · cases h)
    split at h
    · next hwin =>
      cases h
      exact ⟨hwin, rfl⟩
    · split at h <;> cases h

/-- From offset 8 up the VDP block has neither the data nor the control port (30_encoding.md R149). -/
theorem vdpPort_ge_eight {o : BitVec 5} (h : 8 ≤ o.toNat) : vdpPort o = .psg ∨ vdpPort o = .none := by
  have data : ¬ o < 4 := by simp [BitVec.lt_def]; omega
  have ctrl : ¬ o < 8 := by simp [BitVec.lt_def]; omega
  unfold vdpPort
  rw [if_neg data, if_neg ctrl]
  split
  · exact .inl rfl
  · exact .inr rfl

section
variable {s : State} {a : Addr} (h : ¬ (inWin s.cfg.vdpWin a = true ∧ (field a 0 5).toNat < 8))
include h

/-- An address outside the data and control ports that is in the VDP block is at the PSG port or at none. -/
theorem vdpPort_of_region {o : BitVec 5} (hr : region s.cfg s.bus a = .vdp o) :
    vdpPort o = .psg ∨ vdpPort o = .none := by
  obtain ⟨hwin, rfl⟩ := region_vdp hr
  exact vdpPort_ge_eight (Nat.le_of_not_lt fun hlt => h ⟨hwin, hlt⟩)

theorem busRd16_eq_splitRd16 : busRd16 a s = splitRd16 a s := by
  unfold busRd16
  split
  · next o hr => obtain hp | hp := vdpPort_of_region h hr <;> rw [hp]
  · rfl

theorem busWr16_eq_splitWr16 (now : Nat) (v : Half) : busWr16 now a v s = splitWr16 now a v s := by
  unfold busWr16
  split
  · next o hr => obtain hp | hp := vdpPort_of_region h hr <;> rw [hp]
  · rfl

end

/-! The four main-bus rows in a ready state. -/

section
variable {s : State} (h : s.ready) (x : Ctx) (a : Addr)
include h

theorem exec_rd8 : exec (.rd8 x a) s = .next (replyByte (busRd8 a s)) :=
  guarded_ready h fun y => replyByte (busRd8 a y)

theorem exec_rd16 : exec (.rd16 x a) s = .next (replyWord (busRd16 a s)) :=
  guarded_ready h fun y => replyWord (busRd16 a y)

theorem exec_wr8 (v : Byte) : exec (.wr8 x a v) s = .next (reply .none (busWr8 (ctxNow x s) a v s)) :=
  guarded_ready h fun y => reply .none (busWr8 (ctxNow x y) a v y)

theorem exec_wr16 (v : Half) : exec (.wr16 x a v) s = .next (reply .none (busWr16 (ctxNow x s) a v s)) :=
  guarded_ready h fun y => reply .none (busWr16 (ctxNow x y) a v y)

end

/-- What differs from a ready state in the devices and the response only is ready. -/
theorem State.ready.reply {s t : State} (h : s.ready) (k : OnlyDevices s t) (r : Resp) : (reply r t).ready := by
  obtain ⟨hcfg, hfault⟩ := h
  exact ⟨by rw [reply_cfg, k.cfg, hcfg], by rw [reply_fault, k.fault, hfault]⟩

/-- The time of a transaction is not changed by what the devices do. -/
theorem OnlyDevices.ctxNow {s t : State} (h : OnlyDevices s t) (x : Ctx) : ctxNow x t = ctxNow x s := by
  unfold Machine.ctxNow nowUs
  rw [h.cfg, h.sched]

/-- Settles O18: outside the two ports a word access is the split one, and its second half, after the response of the
first is recorded, does the same. -/
theorem wordAccessIsTwoByteAccesses : Obligations.WordAccessIsTwoByteAccesses := by
  intro s x a v hready hport
  constructor
  · have first := exec_rd8 hready x a
    have hready' := hready.reply (busRd8_only a s).devices (.byte (busRd8 a s).1)
    have second := exec_rd8 hready' x (a + 1)
    rw [busRd8_reply] at second
    refine ⟨_, _, _, _, first, rfl, second, rfl, ?_⟩
    rw [exec_rd16 hready, busRd16_eq_splitRd16 hport]
    rfl
  · have first := exec_wr8 hready x a (hiByte v)
    have hwrite := busWr8_only (ctxNow x s) a (hiByte v) s
    have second := exec_wr8 (hready.reply hwrite .none) x (a + 1) (loByte v)
    rw [busWr8_reply, reply_reply, ctxNow_reply, hwrite.ctxNow] at second
    refine ⟨_, _, first, second, ?_⟩
    rw [exec_wr16 hready, busWr16_eq_splitWr16 hport]
    rfl

end Sys2Proof.Machine

/-! ### Encodings (30_encoding.md; the transport is log 3): what `encode` writes, `decode` reads back. -/

namespace Sys2Proof.Machine

theorem fits_of_wf {i : Instr} (h : i.wf = true) : fits (rowOf i) (rowWord i) = true := by
  unfold Instr.wf at h
  exact (Bool.and_eq_true _ _ ▸ h).1

/-- A word of a row's form has no bit above the bytes the transport gives it. -/
theorem lt_of_fits {n : Nat} {w : BitVec 32} (h : fits n w = true) : w.toNat < 2 ^ (8 * rowBytes n) := by
  simp only [fits, Bool.and_eq_true, decide_eq_true_eq] at h
  obtain ⟨⟨hwidth, -⟩, -⟩ := h
  have hbytes : (rowAt n).width ≤ 8 * rowBytes n := by unfold rowBytes; omega
  exact Nat.lt_of_lt_of_le hwidth (Nat.pow_le_pow_right (by decide) hbytes)

/-- A row's reader that reads an operation's operands back reads, after the row's word, the operation. -/
theorem decodeRow_rowWord {i : Instr} (h : i.wf = true) {f : Reader} {r : List Byte}
    (hread : f (rowWord i) (operandBytes i ++ r) = some (i, r)) :
    decodeRow (rowOf i) f (putWord (rowBytes (rowOf i)) (rowWord i) ++ (operandBytes i ++ r)) = .ok (i, r) := by
  have hfits := fits_of_wf h
  have hword : takeWord (rowBytes (rowOf i)) 0
      (putWord (rowBytes (rowOf i)) (rowWord i) ++ (operandBytes i ++ r)) = some (rowWord i, operandBytes i ++ r) :=
    Codec.word_exact_lt _ _ (lt_of_fits hfits) _
  unfold decodeRow
  simp only [hword, hfits, hread, h, if_true]

section
variable {i : Instr} (reader : Laws.RowReader.Statement i) (h : i.wf = true)
include reader h

/-- An operation that its row's reader reads back is read back by the decoder, whatever follows it. -/
theorem decode_encode (rest : List Byte) : decode (encode i ++ rest) = .ok (i, rest) := by
  obtain ⟨f, hrow, hread⟩ := reader h
  have hlt : rowOf i < 133 := (List.getElem?_eq_some_iff.mp hrow).1
  have hnum : (BitVec.ofNat 8 (rowOf i)).toNat = rowOf i := Nat.mod_eq_of_lt (Nat.lt_trans hlt (by decide))
  simp only [encode, List.cons_append, List.append_assoc, decode, hnum, hrow, decodeRow_rowWord h (hread rest)]

theorem decode_of_encode_eq {bs : List Byte} (hbs : encode i = bs) : decode bs = .ok (i, []) := by
  simpa [hbs] using decode_encode reader h []

end

/-- Settles O3: each operation is well formed and is encoded as the bytes given, so the decoder reads it back. -/
theorem specWordsDecode : Obligations.SpecWordsDecode :=
  ⟨decode_of_encode_eq (Laws.RowReader.regset 0 15 2) rfl rfl,
    decode_of_encode_eq (Laws.RowReader.cmd1 1 0x123) rfl rfl,
    decode_of_encode_eq (Laws.RowReader.cmd2 0xFF 0 3 3) rfl rfl,
    decode_of_encode_eq (Laws.RowReader.modeCramWr ⟨3, 0x7E, 0, 0, 0, 0⟩) rfl rfl,
    decode_of_encode_eq (Laws.RowReader.fmregOther ⟨.main, 0⟩ 1 0x27 1) rfl rfl,
    decode_of_encode_eq (Laws.RowReader.wr8Ram ⟨.main, 7⟩ 0xFF0000 0xAB) rfl rfl,
    decode_of_encode_eq (Laws.RowReader.wr16Vdpdata ⟨.main, 0⟩ 0xC00000 0x0EEE) rfl rfl,
    decode_of_encode_eq (Laws.RowReader.ioData0 (.write 0x40)) rfl rfl,
    decode_of_encode_eq (Laws.RowReader.ardBankwin 0x8200 3) rfl rfl,
    decode_of_encode_eq Laws.RowReader.ackV rfl rfl⟩

end Sys2Proof.Machine

/-! ### The address decode (20_memory.md R110): in a well-formed configuration an address of a window decodes to that
window's device. -/

namespace Sys2Proof.Machine

/-- A window of one address (00_scope.md R13). -/
@[simp] theorem inWin_allBits (w a : Addr) : inWin ⟨w, 0xFFFFFF#24⟩ a = decide (a = w) := by
  have whole : a &&& 0xFFFFFF#24 = a := BitVec.and_allOnes
  simp only [inWin, whole]

/-- A window with an address is not empty, and its match is its lowest address. -/
theorem inWin_base {w : Win} {a : Addr} (h : inWin w a = true) : w.empty = false ∧ w.base.toNat ≤ a.toNat := by
  simp only [inWin, decide_eq_true_eq] at h
  constructor
  · simp [Win.empty, ← h, BitVec.and_assoc]
  · rw [← h, BitVec.toNat_and]
    exact Nat.and_le_left

/-- Windows that are apart share no address. -/
theorem Win.apart_not_both {v w : Win} (h : v.apart w = true) {a : Addr} (hv : inWin v a = true) :
    inWin w a = false := by
  refine Bool.eq_false_iff.mpr fun hw => ?_
  have differ : (v.base ^^^ w.base) &&& v.mask &&& w.mask ≠ 0 := by
    simpa [Win.apart, (inWin_base hv).1, (inWin_base hw).1] using h
  simp only [inWin, decide_eq_true_eq] at hv hw
  apply differ
  rw [← hv, ← hw]
  ext i hi
  simp only [BitVec.getElem_and, BitVec.getElem_xor]
  cases a[i] <;> cases v.mask[i] <;> cases w.mask[i] <;> simp

theorem Win.pairwise_of_allApart {l : List Win} (h : Win.allApart l = true) :
    l.Pairwise fun v w => v.apart w = true := by
  induction l with
  | nil => exact .nil
  | cons w ws ih =>
    simp only [Win.allApart, Bool.and_eq_true, List.all_eq_true] at h
    obtain ⟨hfirst, hrest⟩ := h
    exact .cons hfirst (ih hrest)

section
variable {c : Cfg} (h : c.wf = true) {a : Addr}
include h

theorem Cfg.mapWf_of_wf : c.mapWf = true := by
  simp only [Cfg.wf, Bool.and_eq_true] at h
  obtain ⟨⟨-, hmap⟩, -⟩ := h
  exact hmap

/-- Every window lies above the cartridge window (00_scope.md R18). -/
theorem Cfg.not_le_cartEnd {i : Nat} {w : Win} (hw : c.windows[i]? = some w) (ha : inWin w a = true) :
    ¬ a.toNat ≤ c.cartEnd := by
  have hmap := Cfg.mapWf_of_wf h
  simp only [Cfg.mapWf, Bool.and_eq_true, List.all_eq_true] at hmap
  obtain ⟨⟨-, hbases⟩, -⟩ := hmap
  have hbase : c.cartEnd < w.base.toNat := by simpa [(inWin_base ha).1] using hbases w (List.mem_of_getElem? hw)
  exact Nat.not_le.mpr (Nat.lt_of_lt_of_le hbase (inWin_base ha).2)

/-- An address of one window is in none that follows it in the map (R18). -/
theorem Cfg.windows_pairwise : c.windows.Pairwise fun v w => ∀ a, inWin v a = true → inWin w a = false := by
  have hmap := Cfg.mapWf_of_wf h
  simp only [Cfg.mapWf, Bool.and_eq_true] at hmap
  obtain ⟨-, hapart⟩ := hmap
  exact (Win.pairwise_of_allApart hapart).imp fun hvw _ hv => Win.apart_not_both hvw hv

/-- Two windows at different places of the map share no address (R18). -/
theorem Cfg.not_inWin {i j : Nat} {v w : Win} (hv : c.windows[i]? = some v) (ha : inWin v a = true)
    (hw : c.windows[j]? = some w) (hij : i ≠ j) : inWin w a = false := by
  obtain ⟨hi, rfl⟩ := List.getElem?_eq_some_iff.mp hv
  obtain ⟨hj, rfl⟩ := List.getElem?_eq_some_iff.mp hw
  have apart := List.pairwise_iff_getElem.mp (Cfg.windows_pairwise h)
  obtain hlt | hlt := Nat.lt_or_gt_of_ne hij
  · exact apart i j hi hj hlt a ha
  · refine Bool.eq_false_iff.mpr fun hb => ?_
    rw [apart j i hj hi hlt a hb] at ha
    cases ha

end

/-! The region of an address of each window, in the order of the decode: it is above the cartridge window, and in none
of the windows decoded before (the numbers are their places in `Cfg.windows`). -/

section
variable {c : Cfg} (h : c.wf = true) (b : Bus) {a : Addr}
include h

theorem region_zramWin (ha : inWin c.zramWin a = true) : region c b a = .zram (a.toNat &&& (c.zramSize - 1)) := by
  have above := Cfg.not_le_cartEnd h (i := 1) rfl ha
  simp [region, above, ha]

theorem region_fmWin (ha : inWin c.fmWin a = true) : region c b a = .fm (field a 0 2) := by
  have above := Cfg.not_le_cartEnd h (i := 2) rfl ha
  have out := fun j w => Cfg.not_inWin h (i := 2) (j := j) (w := w) rfl ha
  simp [region, above, out 1 _ rfl, ha]

theorem region_bankWin (ha : inWin c.bankWin a = true) : region c b a = .banksel := by
  have above := Cfg.not_le_cartEnd h (i := 3) rfl ha
  have out := fun j w => Cfg.not_inWin h (i := 3) (j := j) (w := w) rfl ha
  simp [region, above, out 1 _ rfl, out 2 _ rfl, ha]

theorem region_ioWin (ha : inWin c.ioWin a = true) : region c b a = .io (field a 0 5) := by
  have above := Cfg.not_le_cartEnd h (i := 4) rfl ha
  have out := fun j w => Cfg.not_inWin h (i := 4) (j := j) (w := w) rfl ha
  simp [region, above, out 1 _ rfl, out 2 _ rfl, out 3 _ rfl, ha]

theorem region_sramctlAddr : region c b c.sramctlAddr = .sramctl := by
  have ha : inWin ⟨c.sramctlAddr, 0xFFFFFF⟩ c.sramctlAddr = true := by simp
  have above := Cfg.not_le_cartEnd h (i := 5) rfl ha
  have out := fun j w => Cfg.not_inWin h (i := 5) (j := j) (w := w) rfl ha
  simp [region, above, out 1 _ rfl, out 2 _ rfl, out 3 _ rfl, out 4 _ rfl]

theorem region_vdpWin (ha : inWin c.vdpWin a = true) : region c b a = .vdp (field a 0 5) := by
  have above := Cfg.not_le_cartEnd h (i := 6) rfl ha
  have out := fun j w => Cfg.not_inWin h (i := 6) (j := j) (w := w) rfl ha
  have sramctl : a ≠ c.sramctlAddr := by simpa using out 5 _ rfl
  simp [region, above, out 1 _ rfl, out 2 _ rfl, out 3 _ rfl, out 4 _ rfl, sramctl, ha]

theorem region_ramWin (ha : inWin c.ramWin a = true) : region c b a = .ram (a.toNat &&& (c.ramSize - 1)) := by
  have above := Cfg.not_le_cartEnd h (i := 0) rfl ha
  have out := fun j w => Cfg.not_inWin h (i := 0) (j := j) (w := w) rfl ha
  have sramctl : a ≠ c.sramctlAddr := by simpa using out 5 _ rfl
  simp [region, above, out 1 _ rfl, out 2 _ rfl, out 3 _ rfl, out 4 _ rfl, sramctl, out 6 _ rfl, ha]

end

section
variable {c : Cfg} {b : Bus} {a : Addr}

/-- Above the cartridge window and in no other window there is no device. -/
theorem region_outside (hc : c.cartEnd < a.toNat) (hout : ∀ w ∈ c.windows, inWin w a = false) :
    region c b a = .unmapped := by
  simp only [Cfg.windows, List.forall_mem_cons] at hout
  obtain ⟨ram, zram, fm, bank, io, one, vdp, -⟩ := hout
  have sramctl : a ≠ c.sramctlAddr := by simpa using one
  simp [region, Nat.not_le.mpr hc, zram, fm, bank, io, sramctl, vdp, ram]

theorem region_sram {o : Nat} (hc : a.toNat ≤ c.cartEnd) (hs : sramAt b.sram a = some o) :
    region c b a = .sram o := by
  simp [region, cartRegion, hc, hs]

theorem region_rom (hc : a.toNat ≤ c.cartEnd) (hs : sramAt b.sram a = none) (hr : a.toNat < b.romLen) :
    region c b a = .rom a.toNat := by
  simp [region, cartRegion, hc, hs, hr]

theorem region_cartOpen (hc : a.toNat ≤ c.cartEnd) (hs : sramAt b.sram a = none) (hr : b.romLen ≤ a.toNat) :
    region c b a = .unmapped := by
  simp [region, cartRegion, hc, hs, hr]

end

/-- Save RAM answers exactly where it is present and active, in its range (40_bus_operations.md R206). -/
theorem sramAt_eq (d : SaveRam) (a : Addr) : sramAt d a =
    if d.present = true ∧ d.active = true ∧ d.start.toNat ≤ a.toNat ∧ a.toNat ≤ d.stop.toNat
    then some (a.toNat - d.start.toNat) else none := by
  simp [sramAt, BitVec.le_def, and_assoc]

/-! The target of an AUX address (30_encoding.md R166). -/

section
variable {c : Cfg} {bank : BitVec 9} {a : AuxAddr}

theorem auxTarget_zram (ha : a.toNat ≤ 0x3FFF) : auxTarget c bank a = .zram (a.toNat &&& (c.zramSize - 1)) := by
  simp [auxTarget, BitVec.le_def, ha]

theorem auxTarget_fm (hlo : 0x4000 ≤ a.toNat) (hhi : a.toNat ≤ 0x5FFF) : auxTarget c bank a = .fm (field a 0 2) := by
  simp [auxTarget, BitVec.le_def, hhi, show ¬ a.toNat ≤ 0x3FFF by omega]

theorem auxTarget_banksel (hlo : 0x6000 ≤ a.toNat) (hhi : a.toNat ≤ 0x60FF) : auxTarget c bank a = .banksel := by
  simp [auxTarget, BitVec.le_def, hhi, show ¬ a.toNat ≤ 0x3FFF by omega, show ¬ a.toNat ≤ 0x5FFF by omega]

theorem auxTarget_vdpwin (hlo : 0x7F00 ≤ a.toNat) (hhi : a.toNat ≤ 0x7F1F) :
    auxTarget c bank a = .main (c.vdpWin.base ||| (field a 0 5).setWidth 24) := by
  simp [auxTarget, BitVec.le_def, hlo, hhi, show ¬ a.toNat ≤ 0x3FFF by omega, show ¬ a.toNat ≤ 0x5FFF by omega,
    show ¬ a.toNat ≤ 0x60FF by omega]

theorem auxTarget_bankwin (hlo : 0x8000 ≤ a.toNat) : auxTarget c bank a = .main (bank ++ field a 0 15) := by
  simp [auxTarget, BitVec.le_def, hlo, show ¬ a.toNat ≤ 0x3FFF by omega, show ¬ a.toNat ≤ 0x5FFF by omega,
    show ¬ a.toNat ≤ 0x60FF by omega, show ¬ a.toNat ≤ 0x7F1F by omega]

theorem auxTarget_none (ha : 0x6100 ≤ a.toNat ∧ a.toNat ≤ 0x7EFF ∨ 0x7F20 ≤ a.toNat ∧ a.toNat ≤ 0x7FFF) :
    auxTarget c bank a = .none := by
  simp [auxTarget, BitVec.le_def, show ¬ a.toNat ≤ 0x3FFF by omega, show ¬ a.toNat ≤ 0x5FFF by omega,
    show ¬ a.toNat ≤ 0x60FF by omega, show ¬ 0x8000 ≤ a.toNat by omega]
  omega

end
end Sys2Proof.Machine

/-! ### The byte accesses by device (40_bus_operations.md R200, R202, R240, R241). The rows of a region are the byte
access at their address. -/

namespace Sys2Proof.Machine

/-- The regions with no device (R236, R237). -/
def Region.noDevice : Region → Prop
  | .unmapped => True
  | .io o => o.getLsbD 0 = false
  | .vdp o => vdpPort o = .none
  | _ => False

/-- The write-only registers of the main bus (R236). -/
def Region.writeOnly : Region → Prop
  | .banksel | .sramctl => True
  | .vdp o => vdpPort o = .psg
  | _ => False

/-! What a byte access at an address does, by the region the address decodes to. -/

section
variable {s : State} {a : Addr}

theorem busRd8_ram {o : Nat} (hr : region s.cfg s.bus a = .ram o) : busRd8 a s = (Memory.get 0 s.bus.ram o, s) := by
  simp only [busRd8, hr, ramRead]

theorem busRd8_zram {o : Nat} (hr : region s.cfg s.bus a = .zram o) :
    busRd8 a s = (Memory.get 0 s.bus.zram o, s) := by
  simp only [busRd8, hr, zramRead]

theorem busRd8_rom {o : Nat} (hr : region s.cfg s.bus a = .rom o) : busRd8 a s = (Memory.get 0 s.bus.rom o, s) := by
  simp only [busRd8, hr, romRead]

theorem busRd8_sram {o : Nat} (hr : region s.cfg s.bus a = .sram o) :
    busRd8 a s = (Memory.get 0 s.bus.sram.bytes o, s) := by
  simp only [busRd8, hr, sramRead]

theorem busRd8_fm {p : BitVec 2} (hr : region s.cfg s.bus a = .fm p) : busRd8 a s = (s.snd.tover, s) := by
  simp only [busRd8, hr, soundRead]

theorem busRd8_ioOdd {o : BitVec 5} (hr : region s.cfg s.bus a = .io o) (ho : o.getLsbD 0 = true) :
    busRd8 a s = (ioRead s.cfg s.sched s.bus (o.toNat / 2), s) := by
  simp only [busRd8, hr, ioBlockRead8, ho, if_true]

theorem busRd8_openBus (hr : (region s.cfg s.bus a).noDevice ∨ (region s.cfg s.bus a).writeOnly) :
    busRd8 a s = (openBus a, s) := by
  unfold busRd8
  cases h : region s.cfg s.bus a with
  | unmapped | banksel | sramctl => rfl
  | io o =>
    have even : o.getLsbD 0 = false := by simpa only [h, Region.noDevice, Region.writeOnly, or_false] using hr
    simp only [ioBlockRead8, even, Bool.false_eq_true, if_false]
  | vdp o =>
    simp only [h, Region.noDevice, Region.writeOnly] at hr
    obtain port | port := hr <;> simp only [vdpBlockRead8, port]
  | rom | sram | ram | zram | fm => simp only [h, Region.noDevice, Region.writeOnly, or_self] at hr

variable (now : Nat) (v : Byte)

theorem busWr8_ram {o : Nat} (hr : region s.cfg s.bus a = .ram o) :
    busWr8 now a v s = setBus s (ramWrite o v s.bus) := by
  simp only [busWr8, hr]

theorem busWr8_zram {o : Nat} (hr : region s.cfg s.bus a = .zram o) :
    busWr8 now a v s = setBus s (zramWrite o v s.bus) := by
  simp only [busWr8, hr]

theorem busWr8_rom {o : Nat} (hr : region s.cfg s.bus a = .rom o) : busWr8 now a v s = s := by
  simp only [busWr8, hr]

theorem busWr8_sram {o : Nat} (hr : region s.cfg s.bus a = .sram o) :
    busWr8 now a v s = setBus s (sramWrite o v s.bus) := by
  simp only [busWr8, hr]

theorem busWr8_banksel (hr : region s.cfg s.bus a = .banksel) :
    busWr8 now a v s = setBus s (bankShift v s.bus) := by
  simp only [busWr8, hr]

theorem busWr8_sramctl (hr : region s.cfg s.bus a = .sramctl) :
    busWr8 now a v s = setBus s (sramCtlWrite v s.bus) := by
  simp only [busWr8, hr]

theorem busWr8_ioOdd {o : BitVec 5} (hr : region s.cfg s.bus a = .io o) (ho : o.getLsbD 0 = true) :
    busWr8 now a v s = setBus s (ioWrite s.cfg (o.toNat / 2) v s.bus) := by
  simp only [busWr8, hr, ioBlockWrite8, ho, if_true]

theorem busWr8_noDevice (hr : (region s.cfg s.bus a).noDevice) : busWr8 now a v s = s := by
  unfold busWr8
  cases h : region s.cfg s.bus a with
  | unmapped => rfl
  | io o =>
    have even : o.getLsbD 0 = false := by simpa only [h, Region.noDevice] using hr
    simp only [ioBlockWrite8, even, Bool.false_eq_true, if_false]
  | vdp o =>
    have port : vdpPort o = .none := by simpa only [h, Region.noDevice] using hr
    simp only [vdpBlockWrite8, port]
  | rom | sram | ram | zram | fm | banksel | sramctl => simp only [h, Region.noDevice] at hr

end

/-! The AUX port's byte accesses, by the target of the address. -/

section
variable {s : State} {a : AuxAddr}

theorem auxRd8_zram {o : Nat} (ht : auxTarget s.cfg s.bus.bank a = .zram o) :
    auxRd8 a s = (Memory.get 0 s.bus.zram o, s) := by
  simp only [auxRd8, ht, zramRead]

theorem auxRd8_fm {p : BitVec 2} (ht : auxTarget s.cfg s.bus.bank a = .fm p) : auxRd8 a s = (s.snd.tover, s) := by
  simp only [auxRd8, ht, soundRead]

theorem auxRd8_banksel (ht : auxTarget s.cfg s.bus.bank a = .banksel) : auxRd8 a s = (0xFF, s) := by
  simp only [auxRd8, ht]

theorem auxRd8_main {m : Addr} (ht : auxTarget s.cfg s.bus.bank a = .main m) : auxRd8 a s = busRd8 m s := by
  simp only [auxRd8, ht]

theorem auxRd8_none (ht : auxTarget s.cfg s.bus.bank a = .none) : auxRd8 a s = (0xFF, s) := by
  simp only [auxRd8, ht]

variable (now : Nat) (v : Byte)

theorem auxWr8_zram {o : Nat} (ht : auxTarget s.cfg s.bus.bank a = .zram o) :
    auxWr8 now a v s = setBus s (zramWrite o v s.bus) := by
  simp only [auxWr8, ht]

theorem auxWr8_banksel (ht : auxTarget s.cfg s.bus.bank a = .banksel) :
    auxWr8 now a v s = setBus s (bankShift v s.bus) := by
  simp only [auxWr8, ht]

theorem auxWr8_main {m : Addr} (ht : auxTarget s.cfg s.bus.bank a = .main m) :
    auxWr8 now a v s = busWr8 now m v s := by
  simp only [auxWr8, ht]

theorem auxWr8_none (ht : auxTarget s.cfg s.bus.bank a = .none) : auxWr8 now a v s = s := by
  simp only [auxWr8, ht]

end

/-! The rows of the AUX port in a ready state: each is the AUX-port access at its address. -/

section
variable {s : State} (h : s.ready) (a : AuxAddr) (t : Nat) {i : Instr}
include h

theorem exec_auxRead (hi : i ∈ [.ardZram a t, .ardFm a t, .ardBanksel a t, .ardVdpwin a t, .ardBankwin a t,
      .ardNone a t]) : exec i s = .next (replyByte (auxRd8 a s)) := by
  simp only [List.mem_cons, List.not_mem_nil, or_false] at hi
  obtain rfl | rfl | rfl | rfl | rfl | rfl := hi <;> exact guarded_ready h fun y => replyByte (auxRd8 a y)

theorem exec_auxWrite (v : Byte) (hi : i ∈ [.awrZram a v t, .awrFm a v t, .awrBanksel a v t, .awrVdpwin a v t,
      .awrBankwin a v t, .awrNone a v t]) : exec i s = .next (reply .none (auxWr8 (nowUs s .aux t) a v s)) := by
  simp only [List.mem_cons, List.not_mem_nil, or_false] at hi
  obtain rfl | rfl | rfl | rfl | rfl | rfl := hi <;>
    exact guarded_ready h fun y => reply .none (auxWr8 (nowUs y .aux t) a v y)

end

/-- Settles O13: an address of the window decodes to general RAM, at the address modulo the size. -/
theorem generalRamIsMirrored : Obligations.GeneralRamIsMirrored := by
  intro s x a hready hwin
  have hr := region_ramWin hready.1 s.bus hwin
  constructor
  · have read := exec_rd8 hready x a
    rw [busRd8_ram hr] at read
    rintro i (rfl | rfl) <;> exact read
  · intro i v hi hwf
    have write := exec_wr8 hready x a v
    rw [busWr8_ram _ v hr] at write
    refine ⟨Memory.put 0 s.bus.ram (a.toNat &&& (s.cfg.ramSize - 1)) v, ?_, fun o => Memory.get_put _ _ hwf _ o v⟩
    obtain rfl | rfl := hi <;> exact write

/-- Settles O14: the window of the main bus and the AUX port decode to the same table, each at its address modulo the
size. -/
theorem coprocessorRamIsShared : Obligations.CoprocessorRamIsShared := by
  constructor
  · intro s x a b t hready hwin hb i o hi
    have main := exec_rd8 hready x a
    have aux := exec_auxRead hready b t (i := .ardZram b t) (by simp)
    rw [busRd8_zram (region_zramWin hready.1 s.bus hwin)] at main
    rw [auxRd8_zram (auxTarget_zram hb)] at aux
    obtain ⟨rfl | rfl, rfl⟩ | ⟨rfl, rfl⟩ := hi
    · exact main
    · exact main
    · exact aux
  · intro s x a b t v hready hwf hwin hb i o hi
    have main := exec_wr8 hready x a v
    have aux := exec_auxWrite hready b t v (i := .awrZram b v t) (by simp)
    rw [busWr8_zram _ v (region_zramWin hready.1 s.bus hwin)] at main
    rw [auxWr8_zram _ v (auxTarget_zram hb)] at aux
    refine ⟨Memory.put 0 s.bus.zram o v, ?_, fun k => Memory.get_put _ _ hwf _ k v⟩
    obtain ⟨rfl | rfl, rfl⟩ | ⟨rfl, rfl⟩ := hi
    · exact main
    · exact main
    · exact aux

/-- Settles O15: at an address of the image that no active save RAM covers, the decode is the image. -/
theorem romIsReadOnly : Obligations.RomIsReadOnly := by
  intro s x a hready hlen hrom hsram
  have hr : region s.cfg s.bus a = .rom a.toNat :=
    region_rom (by omega) (by rw [sramAt_eq, if_neg hsram]) hrom
  have read := exec_rd8 hready x a
  rw [busRd8_rom hr] at read
  constructor
  · rintro i (rfl | rfl) <;> exact read
  · intro i v hi
    have write := exec_wr8 hready x a v
    rw [busWr8_rom _ v hr] at write
    obtain rfl | rfl := hi <;> exact write

/-- Settles O16: in its range active save RAM is decoded first; the write-protect bit is looked at by a write only. -/
theorem saveRamIsGated : Obligations.SaveRamIsGated := by
  intro s x a hready d hpresent hactive hlo hhi hstop
  have hr : region s.cfg s.bus a = .sram (a.toNat - d.start.toNat) :=
    region_sram (Nat.le_trans hhi hstop) (by rw [sramAt_eq, if_pos ⟨hpresent, hactive, hlo, hhi⟩])
  have read := exec_rd8 hready x a
  rw [busRd8_sram hr] at read
  constructor
  · rintro i (rfl | rfl) <;> exact read
  · intro i v hi
    have write := exec_wr8 hready x a v
    rw [busWr8_sram _ v hr] at write
    constructor
    · intro hwp
      rw [sramWrite, if_pos hwp] at write
      obtain rfl | rfl := hi <;> exact write
    · intro hwp hwf
      rw [sramWrite, if_neg (Bool.eq_false_iff.mp hwp)] at write
      refine ⟨Memory.put 0 d.bytes (a.toNat - d.start.toNat) v, ?_, fun o => Memory.get_put _ _ hwf _ o v⟩
      obtain rfl | rfl := hi <;> exact write

/-- Settles O19: both decodes give an FM port, and every port reads the overflow byte. -/
theorem soundPortsReadTheOverflowByte : Obligations.SoundPortsReadTheOverflowByte := by
  intro s x a b t hready hwin hlo hhi i hi
  have main := exec_rd8 hready x a
  have aux := exec_auxRead hready b t (i := .ardFm b t) (by simp)
  rw [busRd8_fm (region_fmWin hready.1 s.bus hwin)] at main
  rw [auxRd8_fm (auxTarget_fm hlo hhi)] at aux
  obtain rfl | rfl | rfl | rfl := hi
  · exact main
  · exact main
  · exact main
  · exact aux

/-! Addresses with no device (40_bus_operations.md R236, R237). -/

/-- The offset of an address in a block has the address's low bit, its lane. -/
theorem getLsbD_zero_offset (a : Addr) : (field a 0 5).getLsbD 0 = a.getLsbD 0 := by simp [field]

/-- The PSG port is the one offset 0x11 (30_encoding.md R149). -/
theorem vdpPort_psg : ∀ o : BitVec 5, vdpPort o = .psg ↔ o.toNat = 0x11 := by decide

section
variable {c : Cfg} (h : c.wf = true) {b : Bus} {a : Addr}
include h

theorem region_noDevice (hn : noDevice c b a) : (region c b a).noDevice := by
  obtain ⟨hc, hrom, hsram⟩ | ⟨hc, hout⟩ | ⟨hwin, heven⟩ | ⟨hwin, hlo, hpsg⟩ := hn
  · rw [region_cartOpen hc hsram hrom]
    trivial
  · rw [region_outside hc hout]
    trivial
  · rw [region_ioWin h b hwin]
    exact (getLsbD_zero_offset a).trans heven
  · rw [region_vdpWin h b hwin]
    exact (vdpPort_ge_eight hlo).resolve_left (mt (vdpPort_psg _).mp hpsg)

theorem region_writeOnly (hn : writeOnly c a) : (region c b a).writeOnly := by
  obtain hwin | rfl | ⟨hwin, hpsg⟩ := hn
  · rw [region_bankWin h b hwin]
    trivial
  · rw [region_sramctlAddr h b]
    trivial
  · rw [region_vdpWin h b hwin]
    exact (vdpPort_psg _).mpr hpsg

end

/-- An odd address of the I/O block at register `n` is on the odd lane, and its offset halved is `n` (30_encoding.md
R151). -/
theorem ioOffset_odd {o : BitVec 5} {n : Nat} (ho : o.toNat = 2 * n + 1) : o.getLsbD 0 = true ∧ o.toNat / 2 = n := by
  refine ⟨?_, by omega⟩
  rw [BitVec.getLsbD, Nat.testBit_zero, decide_eq_true_eq]
  omega

/-- Settles O17: none of these regions has a device that answers a read, and no write there lands but on register 0,
which takes nothing. -/
theorem noDeviceIsOpenBus : Obligations.NoDeviceIsOpenBus := by
  refine ⟨fun s x a hready => ⟨fun i hn hi => ?_, fun i v hn hi => ?_⟩, fun s x a v hready hwin heven => ?_⟩
  · have hopen : busRd8 a s = (openBus a, s) :=
      busRd8_openBus (hn.imp (region_noDevice hready.1) (region_writeOnly hready.1))
    have read := exec_rd8 hready x a
    rw [hopen] at read
    obtain rfl | rfl | rfl | rfl | rfl | rfl | rfl | rfl := hi <;> exact read
  · have hdrop : busWr8 (ctxNow x s) a v s = s := by
      obtain hn | ⟨hwin, hn⟩ := hn
      · exact busWr8_noDevice _ v (region_noDevice hready.1 hn)
      · obtain ⟨hodd, hzero⟩ := ioOffset_odd (n := 0) hn
        rw [busWr8_ioOdd _ v (region_ioWin hready.1 s.bus hwin) hodd, hzero]
        rfl
    have write := exec_wr8 hready x a v
    rw [hdrop] at write
    obtain rfl | rfl | rfl | rfl | rfl := hi <;> exact write
  · have hr : (region s.cfg s.bus a).noDevice := region_noDevice hready.1 (.inr (.inr (.inl ⟨hwin, heven⟩)))
    have read := exec_rd8 hready x a
    have write := exec_wr8 hready x a v
    rw [busRd8_openBus (.inl hr)] at read
    rw [busWr8_noDevice _ v hr] at write
    have evenRead : exec (.ioEven a .read) s = .next (ioEvenAccess a .read s) := guarded_ready hready _
    have evenWrite : exec (.ioEven a (.write v)) s = .next (ioEvenAccess a (.write v) s) := guarded_ready hready _
    exact ⟨evenRead, evenWrite, read.trans evenRead.symm, write.trans evenWrite.symm⟩

end Sys2Proof.Machine

/-! ### The registers: bank select, save-RAM control, the I/O block and its pads (40_bus_operations.md R218 to R228). -/

namespace Sys2Proof.Machine

/-! The rows of the values and of the I/O registers, in a ready state (logs 14, 27). -/

section
variable {s : State} (h : s.ready)
include h

theorem exec_bankselValue (v : Byte) :
    exec (.bankselValue v) s = .next (reply .none (setBus s (bankShift v s.bus))) :=
  guarded_ready h fun y => reply .none (setBus y (bankShift v y.bus))

theorem exec_sramctlValue (v : Byte) :
    exec (.sramctlValue v) s = .next (reply .none (setBus s (sramCtlWrite v s.bus))) :=
  guarded_ready h fun y => reply .none (setBus y (sramCtlWrite v y.bus))

theorem exec_ioRow {n : Nat} (hn : n < 16) (k : Access) : exec (ioRow k n) s = .next (ioAccess n k s) := by
  match n, hn with
  | 0, _ | 1, _ | 2, _ | 3, _ | 4, _ | 5, _ | 6, _ | 7, _ | 8, _ | 9, _ | 10, _ | 11, _ | 12, _ | 13, _ | 14, _
  | 15, _ => exact guarded_ready h fun y => ioAccess _ k y
  | m + 16, hm => exact absurd hm (by omega)

end

/-! The bank select register (R218). -/

/-- A shift moves every bit down one place and puts the data bit at the top. -/
theorem getLsbD_bankShift (v : Byte) (b : Bus) (n : Nat) : (bankShift v b).bank.getLsbD n =
    if n < 8 then b.bank.getLsbD (n + 1) else (bit v 0).getLsbD (n - 8) := by
  refine (BitVec.getLsbD_append (x := bit v 0) (y := field b.bank 1 8)).trans ?_
  split
  · next hn => simp [field, hn, Nat.add_comm]
  · rfl

/-- The data byte that carries bit `n` of the value being loaded. -/
def bankLoadByte (w : BitVec 9) (n : Nat) : Byte := (bit w n).setWidth 8

/-- The register after `n` writes of the load of `w`: the nine bits from bit `n` up of the two values laid end to end,
the old one below. -/
def bankLoading (w old : BitVec 9) (n : Nat) : BitVec 9 := field (w ++ old) n 9

theorem bankLoading_zero (w old : BitVec 9) : bankLoading w old 0 = old :=
  (field_append_lo w old 0 9 (by decide)).trans (field_self old)

theorem bankLoading_nine (w old : BitVec 9) : bankLoading w old 9 = w :=
  (field_append_hi w old 9 9 (by decide)).trans (field_self w)

theorem getLsbD_bankLoading (w old : BitVec 9) (n : Nat) {i : Nat} (hi : i < 9) :
    (bankLoading w old n).getLsbD i = if n + i < 9 then old.getLsbD (n + i) else w.getLsbD (n + i - 9) := by
  rw [bankLoading, field, BitVec.getLsbD_extractLsb', BitVec.getLsbD_append]
  simp [hi]

/-- One write of the load. -/
theorem bankShift_loading (w old : BitVec 9) (b : Bus) {n : Nat} (hb : b.bank = bankLoading w old n) :
    bankShift (bankLoadByte w n) b = { b with bank := bankLoading w old (n + 1) } := by
  have shifted : (bankShift (bankLoadByte w n) b).bank = bankLoading w old (n + 1) := by
    apply BitVec.eq_of_getLsbD_eq
    intro i hi
    rw [getLsbD_bankShift, getLsbD_bankLoading w old _ hi]
    split
    · rw [hb, getLsbD_bankLoading w old _ (by omega), Nat.add_right_comm, Nat.add_assoc]
    · obtain rfl : i = 8 := by omega
      simp [bankLoadByte, bit, Nat.add_assoc]
  exact congrArg (fun k => { b with bank := k }) shifted

/-- A list of operations and one more. -/
theorem runAll_concat {l : List Instr} {i : Instr} {s t u : State} (hl : runAll l s = some t)
    (hi : exec i t = .next u) : runAll (l ++ [i]) s = some u := by
  induction l generalizing s with
  | nil =>
    obtain rfl : s = t := Option.some.inj hl
    simp only [List.nil_append, runAll, hi]
  | cons j r ih =>
    simp only [runAll] at hl
    split at hl
    · next w hj => simpa only [List.cons_append, runAll, hj] using ih hl
    · cases hl

/-- The writes of a load, one by one. -/
theorem runAll_bankLoad {s : State} (h : s.ready) (w : BitVec 9) (n : Nat) :
    runAll ((List.range (n + 1)).map fun k => .bankselValue (bankLoadByte w k)) s
      = some { s with bus := { s.bus with bank := bankLoading w s.bus.bank (n + 1) }, resp := .none } := by
  induction n with
  | zero =>
    have first := exec_bankselValue h (bankLoadByte w 0)
    rw [bankShift_loading w s.bus.bank s.bus (bankLoading_zero ..).symm] at first
    exact runAll_concat (l := []) rfl first
  | succ n ih =>
    rw [List.range_succ, List.map_append]
    refine runAll_concat ih ((exec_bankselValue ?_ _).trans ?_)
    · exact h
    · rw [bankShift_loading w s.bus.bank _ rfl]
      rfl

/-- Settles O26: every row of the write is one shift; a load leaves nothing of the old value after its ninth write. -/
theorem bankRegisterShifts : Obligations.BankRegisterShifts := by
  constructor
  · intro s x a b t v hready hwin hlo hhi i hi
    have value := exec_bankselValue hready v
    have main := exec_wr8 hready x a v
    have aux := exec_auxWrite hready b t v (i := .awrBanksel b v t) (by simp)
    rw [busWr8_banksel _ v (region_bankWin hready.1 s.bus hwin)] at main
    rw [auxWr8_banksel _ v (auxTarget_banksel hlo hhi)] at aux
    refine ⟨(bankShift v s.bus).bank, ?_, ?_, fun n hn => ?_⟩
    · obtain rfl | rfl | rfl | rfl := hi
      · exact value
      · exact main
      · exact main
      · exact aux
    · rw [getLsbD_bankShift, if_neg (by decide)]
      simp [bit]
    · rw [getLsbD_bankShift, if_pos hn]
  · intro s w hready
    have loaded := runAll_bankLoad hready w 8
    rw [bankLoading_nine] at loaded
    exact loaded

/-- Settles O27: the port's address decodes to the register, and the register is the row of the value. -/
theorem saveRamControl : Obligations.SaveRamControl := by
  intro s x v hready i hi
  have write : exec i s = .next (reply .none (setBus s (sramCtlWrite v s.bus))) := by
    have value := exec_sramctlValue hready v
    have main := exec_wr8 hready x s.cfg.sramctlAddr v
    rw [busWr8_sramctl _ v (region_sramctlAddr hready.1 s.bus)] at main
    obtain rfl | rfl | rfl := hi
    · exact value
    · exact main
    · exact main
  constructor
  · intro habsent
    rw [write, sramCtlWrite, if_neg (Bool.eq_false_iff.mp habsent)]
    rfl
  · intro hpresent
    rw [write, sramCtlWrite, if_pos hpresent]
    rfl

end Sys2Proof.Machine

/-! ### What a pad reports (40_bus_operations.md R220, R227, R228). -/

namespace Sys2Proof.Machine

/-- Bit `n` of a pad's half of the pad word. -/
theorem getLsbD_padBits (w : BitVec 32) (p : Nat) {n : Nat} (hn : n < 16) :
    (padBits w p).getLsbD n = w.getLsbD (16 * p + n) := by
  simp [padBits, field, hn]

/-- The low six bits of a pad byte: the row of R227's table for the toggle line and the phase, of the button bits `k`. -/
def padRow (k : BitVec 16) (line : Bool) (ph : BitVec 2) : BitVec 6 :=
  if line then
    (if ph = 3 then field k 4 2 ++ bit k 11 ++ bit k 10 ++ bit k 9 ++ bit k 8 else field k 0 6)
  else if ph = 3 then bit k 7 ++ bit k 6 ++ 0b1111#4
  else if ph = 2 then bit k 7 ++ bit k 6 ++ 0#4
  else bit k 7 ++ bit k 6 ++ 0#2 ++ bit k 1 ++ bit k 0

section
variable {c : Cfg} {p : Nat} (hp : p < c.nPads ∧ p < 2) (latch : BitVec 32) (b : Bus)
include hp

theorem padByte_eq : padByte c latch b p =
    0#1 ++ BitVec.ofBool (thLine b p) ++ padRow (padBits latch p) (thLine b p) (Memory.get 0 b.padPhase p) :=
  if_pos hp

theorem getLsbD_padByte_seven : (padByte c latch b p).getLsbD 7 = false := by
  rw [padByte_eq hp, BitVec.getLsbD_append, if_neg (by decide), BitVec.getLsbD_append, if_neg (by decide)]
  rfl

theorem getLsbD_padByte_six : (padByte c latch b p).getLsbD 6 = thLine b p := by
  rw [padByte_eq hp, BitVec.getLsbD_append, if_neg (by decide), BitVec.getLsbD_append, if_pos (by decide)]
  simp

theorem getLsbD_padByte_low {n : Nat} (hn : n < 6) : (padByte c latch b p).getLsbD n =
    (padRow (padBits latch p) (thLine b p) (Memory.get 0 b.padPhase p)).getLsbD n := by
  rw [padByte_eq hp, BitVec.getLsbD_append, if_pos hn]

end

/-- Bits 5 to 0, the highest first. -/
def sixBits (x : BitVec 6) : List Bool :=
  [x.getLsbD 5, x.getLsbD 4, x.getLsbD 3, x.getLsbD 2, x.getLsbD 1, x.getLsbD 0]

/-! The rows of the table. -/

section
variable (k : BitVec 16)

theorem padRow_high {ph : BitVec 2} (h : ph ≠ 3) : padRow k true ph = field k 0 6 := by
  rw [padRow, if_pos rfl, if_neg h]

theorem padRow_high_three : sixBits (padRow k true 3) =
    [k.getLsbD 5, k.getLsbD 4, k.getLsbD 11, k.getLsbD 10, k.getLsbD 9, k.getLsbD 8] := by
  rw [padRow, if_pos rfl, if_pos rfl]
  simp only [sixBits, bit, field, BitVec.getLsbD_append]
  simp

theorem padRow_low {ph : BitVec 2} (h : ph = 0 ∨ ph = 1) : sixBits (padRow k false ph) =
    [k.getLsbD 7, k.getLsbD 6, false, false, k.getLsbD 1, k.getLsbD 0] := by
  have row : padRow k false ph = bit k 7 ++ bit k 6 ++ 0#2 ++ bit k 1 ++ bit k 0 := by
    obtain rfl | rfl := h <;> rfl
  rw [row]
  simp only [sixBits, bit, BitVec.getLsbD_append]
  simp

theorem padRow_low_two : sixBits (padRow k false 2) =
    [k.getLsbD 7, k.getLsbD 6, false, false, false, false] := by
  have row : padRow k false 2 = bit k 7 ++ bit k 6 ++ 0#4 := rfl
  rw [row]
  simp only [sixBits, bit, BitVec.getLsbD_append]
  simp

theorem padRow_low_three : sixBits (padRow k false 3) =
    [k.getLsbD 7, k.getLsbD 6, true, true, true, true] := by
  have row : padRow k false 3 = bit k 7 ++ bit k 6 ++ 0b1111#4 := rfl
  rw [row]
  simp only [sixBits, bit, BitVec.getLsbD_append]
  simp

end

/-- Settles O31: the byte is a clear bit, the line and the row of the table, and the rows are R227's. -/
theorem padReport : Obligations.PadReport := by
  intro c latch b p
  refine ⟨if_neg fun h => absurd h.2 (by decide), fun hpads htwo => ?_⟩
  intro v ph k
  have hp : p < c.nPads ∧ p < 2 := ⟨hpads, htwo⟩
  have six : [v.getLsbD 5, v.getLsbD 4, v.getLsbD 3, v.getLsbD 2, v.getLsbD 1, v.getLsbD 0]
      = sixBits (padRow (padBits latch p) (thLine b p) ph) := by
    simp only [sixBits, v, ph, getLsbD_padByte_low hp, Nat.reduceLT]
  have buttons : ∀ n, n < 16 → (padBits latch p).getLsbD n = k n := fun n => getLsbD_padBits latch p
  refine ⟨getLsbD_padByte_seven hp latch b, getLsbD_padByte_six hp latch b, fun hline hph n hn => ?_,
    fun hline hph => ?_, fun hline hph => ?_, fun hline hph => ?_, fun hline hph => ?_⟩
  · refine (getLsbD_padByte_low hp latch b hn).trans ?_
    rw [hline, padRow_high _ hph, ← buttons n (by omega)]
    simp [field, hn]
  · rw [six, hline, hph, padRow_high_three]
    simp only [buttons, Nat.reduceLT]
  · rw [six, hline, padRow_low _ hph]
    simp only [buttons, Nat.reduceLT]
  · rw [six, hline, hph, padRow_low_two]
    simp only [buttons, Nat.reduceLT]
  · rw [six, hline, hph, padRow_low_three]
    simp only [buttons, Nat.reduceLT]

end Sys2Proof.Machine

/-! ### The I/O block (40_bus_operations.md R220, R221, R226): sixteen registers, of four kinds. -/

namespace Sys2Proof.Machine

/-- A register is VERSION, the DATA or the CTRL register of a port, or a serial register (30_encoding.md R151). -/
theorem ioRegister_cases (n : Nat) :
    n = 0 ∨ (∃ p, p < 3 ∧ n = p + 1) ∨ (∃ p, p < 3 ∧ n = p + 4) ∨ ∃ k, n = k + 7 := by
  obtain h | h | h | h : n = 0 ∨ (1 ≤ n ∧ n ≤ 3) ∨ (4 ≤ n ∧ n ≤ 6) ∨ 7 ≤ n := by omega
  · exact .inl h
  · exact .inr (.inl ⟨n - 1, by omega, by omega⟩)
  · exact .inr (.inr (.inl ⟨n - 4, by omega, by omega⟩))
  · exact .inr (.inr (.inr ⟨n - 7, by omega⟩))

/-! A read (R220). -/

section
variable (c : Cfg) (x : Sched) (b : Bus)

theorem ioRead_version : ioRead c x b 0 = ioVersionByte c x.std := rfl

theorem ioRead_data {p : Nat} (hp : p < 3) : ioRead c x b (p + 1) = ioDataByte c x.padLatch b p := by
  rw [ioRead, if_neg (by omega), if_pos (by omega), Nat.add_sub_cancel]

theorem ioRead_ctrl {p : Nat} (hp : p < 3) : ioRead c x b (p + 4) = Memory.get 0 b.ioCtrl p := by
  rw [ioRead, if_neg (by omega), if_neg (by omega), if_pos (by omega), Nat.add_sub_cancel]

theorem ioRead_ser (k : Nat) : ioRead c x b (k + 7) = Memory.get 0 b.ioSer k := by
  rw [ioRead, if_neg (by omega), if_neg (by omega), if_neg (by omega), Nat.add_sub_cancel]

end

/-- The VERSION byte, bit by bit (30_encoding.md R152). -/
theorem getLsbD_ioVersionByte (c : Cfg) (x : Std) :
    (ioVersionByte c x).getLsbD 7 = c.regionOverseas ∧ (ioVersionByte c x).getLsbD 6 = decide (x = .pal) ∧
      (ioVersionByte c x).getLsbD 5 = true ∧ ∀ k, k < 5 → (ioVersionByte c x).getLsbD k = false := by
  unfold ioVersionByte
  cases c.regionOverseas <;> cases x <;> decide

/-- A DATA register's byte: the latch on bit 7 and on the lines CTRL drives, the pad on the others. -/
theorem getLsbD_ioDataByte (c : Cfg) (latch : BitVec 32) (b : Bus) (p : Nat) {k : Nat} (hk : k < 8) :
    (ioDataByte c latch b p).getLsbD k =
      if k = 7 ∨ (Memory.get 0 b.ioCtrl p).getLsbD k = true then (Memory.get 0x7F b.ioData p).getLsbD k
      else (padByte c latch b p).getLsbD k := by
  have top : (0x80#8).getLsbD k = decide (k = 7) := by
    revert k
    decide
  simp only [ioDataByte, BitVec.getLsbD_or, BitVec.getLsbD_and, BitVec.getLsbD_not, hk]
  rw [show (0x80 : Byte) = 0x80#8 from rfl, top]
  by_cases h7 : k = 7
  · simp [h7]
  · cases (Memory.get 0 b.ioCtrl p).getLsbD k <;> simp [h7]

/-- Settles O28: kind by kind, the row and the address reading the same register. -/
theorem ioRegistersRead : Obligations.IoRegistersRead := by
  intro s x a n hready hn hwin hoffset
  obtain ⟨hodd, hreg⟩ := ioOffset_odd hoffset
  refine ⟨ioRead s.cfg s.sched s.bus n, fun i hi => ?_, ?_, ?_, ?_, ?_⟩
  · have row := exec_ioRow hready hn .read
    have main := exec_rd8 hready x a
    rw [busRd8_ioOdd (region_ioWin hready.1 s.bus hwin) hodd, hreg] at main
    obtain rfl | rfl | rfl := hi
    · exact row
    · exact main
    · exact main
  · rintro rfl
    rw [ioRead_version]
    exact getLsbD_ioVersionByte s.cfg s.sched.std
  · intro hlo hhi k hk
    obtain ⟨p, rfl⟩ : ∃ p, n = p + 1 := ⟨n - 1, by omega⟩
    rw [ioRead_data _ _ _ (by omega), getLsbD_ioDataByte _ _ _ _ hk, Nat.add_sub_cancel]
  · intro hlo hhi
    obtain ⟨p, rfl⟩ : ∃ p, n = p + 4 := ⟨n - 4, by omega⟩
    rw [ioRead_ctrl _ _ _ (by omega), Nat.add_sub_cancel]
  · intro hlo
    obtain ⟨k, rfl⟩ : ∃ k, n = k + 7 := ⟨n - 7, by omega⟩
    rw [ioRead_ser, Nat.add_sub_cancel]

/-! A write (R221), and the edge it may make on the toggle line of its port (R226). -/

section
variable (c : Cfg) (v : Byte) (b : Bus)

theorem ioWrite_version : ioWrite c 0 v b = b := rfl

theorem ioWrite_data {p : Nat} (hp : p < 3) :
    ioWrite c (p + 1) v b = padEdge c p b { b with ioData := Memory.put 0x7F b.ioData p v } := by
  rw [ioWrite, if_neg (by omega), if_pos (by omega), Nat.add_sub_cancel]

theorem ioWrite_ctrl {p : Nat} (hp : p < 3) :
    ioWrite c (p + 4) v b = padEdge c p b { b with ioCtrl := Memory.put 0 b.ioCtrl p v } := by
  rw [ioWrite, if_neg (by omega), if_neg (by omega), if_pos (by omega), Nat.add_sub_cancel]

theorem ioWrite_ser (k : Nat) : ioWrite c (k + 7) v b = { b with ioSer := Memory.put 0 b.ioSer k v } := by
  rw [ioWrite, if_neg (by omega), if_neg (by omega), if_neg (by omega), Nat.add_sub_cancel]

end

section
variable (c : Cfg) (p : Nat) (before b : Bus)

/-- An edge changes the pads' state only. -/
theorem padEdge_only : padEdge c p before b =
    { b with padPhase := (padEdge c p before b).padPhase, padTimeout := (padEdge c p before b).padTimeout } := by
  unfold padEdge thEdge
  split
  · split <;> rfl
  · rfl

@[simp] theorem padEdge_ioData : (padEdge c p before b).ioData = b.ioData := by rw [padEdge_only]

@[simp] theorem padEdge_ioCtrl : (padEdge c p before b).ioCtrl = b.ioCtrl := by rw [padEdge_only]

@[simp] theorem padEdge_ioSer : (padEdge c p before b).ioSer = b.ioSer := by rw [padEdge_only]

@[simp] theorem thLine_padEdge (q : Nat) : thLine (padEdge c p before b) q = thLine b q := by
  simp only [thLine, padEdge_ioData, padEdge_ioCtrl]

/-- An edge touches no other pad, and none of a port that has no pad. -/
theorem padEdge_other {q : Nat} (hq : ¬ (q < c.nPads ∧ q = p)) :
    Memory.get 0 (padEdge c p before b).padPhase q = Memory.get 0 b.padPhase q ∧
      Memory.get 0 (padEdge c p before b).padTimeout q = Memory.get 0 b.padTimeout q := by
  unfold padEdge thEdge
  split
  · next hp =>
    have hne : q ≠ p := fun e => hq ⟨e ▸ hp, e⟩
    split
    · exact ⟨rfl, rfl⟩
    · refine ⟨?_, Memory.get_put_ne 0 _ _ hne⟩
      dsimp only
      split
      · exact Memory.get_put_ne 0 _ _ hne
      · rfl
  · exact ⟨rfl, rfl⟩

theorem padEdge_still (h : thLine b p = thLine before p) : padEdge c p before b = b := by
  unfold padEdge thEdge
  rw [if_pos h.symm, ite_self]

/-- The line of a pad moves: its timeout starts again, and the phase of a six-button pad advances where the line rose. -/
theorem padEdge_moved (hp : p < c.nPads) (h : thLine b p ≠ thLine before p) (hphase : Memory.wf 0 b.padPhase)
    (htimeout : Memory.wf 0 b.padTimeout) :
    Memory.get 0 (padEdge c p before b).padTimeout p = 0 ∧
      Memory.get 0 (padEdge c p before b).padPhase p =
        if thLine b p = true ∧ sixButton c p = true then Memory.get 0 b.padPhase p + 1
        else Memory.get 0 b.padPhase p := by
  unfold padEdge thEdge
  rw [if_pos hp, if_neg h.symm]
  refine ⟨Memory.get_put_self 0 _ htimeout p 0, ?_⟩
  have fell : thLine before p = !thLine b p := Bool.eq_not.mpr h.symm
  have rose : (!thLine before p && thLine b p && sixButton c p) = (thLine b p && sixButton c p) := by
    rw [fell, Bool.not_not, Bool.and_self]
  simp only [rose, Bool.and_eq_true]
  split
  · exact Memory.get_put_self 0 _ hphase p _
  · rfl

end

end Sys2Proof.Machine

/-! ### What a write of an I/O register does, and the AUX port (40_bus_operations.md R221, R226, R240 to R247). -/

namespace Sys2Proof.Machine

/-- A read after a write, for an index named by any condition that says it is the one written. -/
theorem Memory.get_put_iff {α : Type} [DecidableEq α] {d : α} {m : Sparse α} (hm : wf d m) {a b : Nat} (v : α)
    {P : Prop} [Decidable P] (hP : b = a ↔ P) : get d (put d m a v) b = if P then v else get d m b := by
  simp only [get_put d m hm, hP]

/-- A write of an I/O register changes nothing but the registers and the pads' state. -/
theorem ioWrite_only (c : Cfg) (n : Nat) (v : Byte) (b : Bus) : ioWrite c n v b =
    { b with
      ioData := (ioWrite c n v b).ioData
      ioCtrl := (ioWrite c n v b).ioCtrl
      ioSer := (ioWrite c n v b).ioSer
      padPhase := (ioWrite c n v b).padPhase
      padTimeout := (ioWrite c n v b).padTimeout } := by
  obtain rfl | ⟨p, hp, rfl⟩ | ⟨p, hp, rfl⟩ | ⟨k, rfl⟩ := ioRegister_cases n
  · rfl
  · rw [ioWrite_data c v b hp, padEdge_only]
  · rw [ioWrite_ctrl c v b hp, padEdge_only]
  · rw [ioWrite_ser]

/-- Settles O29: kind by kind; a DATA or CTRL write may make an edge on its own port. -/
theorem ioRegistersWrite : Obligations.IoRegistersWrite := by
  intro s x a v n hready hn hwin hoffset hdata hctrl hser _ _
  obtain ⟨hodd, hreg⟩ := ioOffset_odd hoffset
  refine ⟨ioWrite s.cfg n v s.bus, fun i hi => ?_, ioWrite_only .., ?_⟩
  · have row := exec_ioRow hready hn (.write v)
    have main := exec_wr8 hready x a v
    rw [busWr8_ioOdd _ v (region_ioWin hready.1 s.bus hwin) hodd, hreg] at main
    obtain rfl | rfl | rfl := hi
    · exact row
    · exact main
    · exact main
  · obtain rfl | ⟨p, hp, rfl⟩ | ⟨p, hp, rfl⟩ | ⟨j, rfl⟩ := ioRegister_cases n
    · rw [ioWrite_version]
      exact ⟨fun k => (if_neg (by omega)).symm, fun k => (if_neg (by omega)).symm,
        fun k => (if_neg (by omega)).symm, fun q _ => ⟨rfl, rfl⟩⟩
    · rw [ioWrite_data _ _ _ hp, padEdge_ioData, padEdge_ioCtrl, padEdge_ioSer]
      exact ⟨fun k => Memory.get_put_iff hdata v (by omega),
        fun k => (if_neg (by omega)).symm, fun k => (if_neg (by omega)).symm,
        fun q hq => padEdge_other _ _ _ _ (by omega)⟩
    · rw [ioWrite_ctrl _ _ _ hp, padEdge_ioData, padEdge_ioCtrl, padEdge_ioSer]
      exact ⟨fun k => (if_neg (by omega)).symm,
        fun k => Memory.get_put_iff hctrl v (by omega),
        fun k => (if_neg (by omega)).symm, fun q hq => padEdge_other _ _ _ _ (by omega)⟩
    · rw [ioWrite_ser]
      exact ⟨fun k => (if_neg (by omega)).symm, fun k => (if_neg (by omega)).symm,
        fun k => Memory.get_put_iff hser v (by omega), fun q _ => ⟨rfl, rfl⟩⟩

/-- Settles O30: a DATA or CTRL write leaves the pads' state to the edge of its port. -/
theorem toggleEdges : Obligations.ToggleEdges := by
  intro s t v p n hready hpads hp hn hphase htimeout hexec
  have written : t.bus = ioWrite s.cfg n v s.bus := by
    cases (exec_ioRow hready (by omega) (.write v)).symm.trans hexec
    rfl
  obtain ⟨b, hb, hbphase, hbtimeout⟩ : ∃ b, t.bus = padEdge s.cfg p s.bus b ∧ b.padPhase = s.bus.padPhase ∧
      b.padTimeout = s.bus.padTimeout := by
    obtain rfl | rfl := hn
    · exact ⟨_, written.trans (ioWrite_data s.cfg v s.bus hp), rfl, rfl⟩
    · exact ⟨_, written.trans (ioWrite_ctrl s.cfg v s.bus hp), rfl, rfl⟩
  rw [hb, thLine_padEdge, ← hbphase, ← hbtimeout]
  constructor
  · intro still
    rw [padEdge_still _ _ _ _ still]
    exact ⟨rfl, rfl⟩
  · intro moved
    exact padEdge_moved _ _ _ _ hpads moved (hbphase ▸ hphase) (hbtimeout ▸ htimeout)

/-- Settles O43: by the target of the address; a window's access is the main bus's, at AUX's time. -/
theorem auxPort : Obligations.AuxPort := by
  constructor
  · intro s a t v hready
    constructor
    · intro hlo hhi
      have read := exec_auxRead hready a t (i := .ardBanksel a t) (by simp)
      rw [auxRd8_banksel (auxTarget_banksel hlo hhi)] at read
      exact read
    · intro hnone
      have read := exec_auxRead hready a t (i := .ardNone a t) (by simp)
      have write := exec_auxWrite hready a t v (i := .awrNone a v t) (by simp)
      rw [auxRd8_none (auxTarget_none hnone)] at read
      rw [auxWr8_none _ v (auxTarget_none hnone)] at write
      exact ⟨read, write⟩
  · intro s a t v hready r w m hwindow
    have target : auxTarget s.cfg s.bus.bank a = .main m := by
      obtain ⟨hlo, -, -, rfl⟩ | ⟨hlo, hhi, -, -, rfl⟩ := hwindow
      · exact auxTarget_bankwin hlo
      · exact auxTarget_vdpwin hlo hhi
    have read : exec r s = .next (replyByte (auxRd8 a s)) := by
      obtain ⟨-, rfl, -, -⟩ | ⟨-, -, rfl, -, -⟩ := hwindow <;> exact exec_auxRead hready a t (by simp)
    have write : exec w s = .next (reply .none (auxWr8 (nowUs s .aux t) a v s)) := by
      obtain ⟨-, -, rfl, -⟩ | ⟨-, -, -, rfl, -⟩ := hwindow <;> exact exec_auxWrite hready a t v (by simp)
    rw [auxRd8_main target] at read
    rw [auxWr8_main _ v target] at write
    exact ⟨⟨_, read, exec_rd8 hready ⟨.auxwin, t⟩ m⟩, ⟨_, write, exec_wr8 hready ⟨.auxwin, t⟩ m v⟩⟩

end Sys2Proof.Machine

/-! ### The rows of the frame (41_frame_scheduler.md): what each does in a ready state, and the steps that touch one
group of State. -/

namespace Sys2Proof.Machine

/-- Settles O4: by the queue, and then by what its front decodes to. -/
theorem stepRunsTheDecodedOperation : Obligations.StepRunsTheDecodedOperation := by
  intro s
  refine ⟨fun hq => ?_, fun i rest hq hd => ?_, fun e hq hd => ?_⟩ <;> unfold step
  · rw [hq]
  · obtain ⟨b, bs, hb⟩ := List.exists_cons_of_ne_nil hq
    rw [hb] at hd ⊢
    simp only [hd]
  · obtain ⟨b, bs, hb⟩ := List.exists_cons_of_ne_nil hq
    rw [hb] at hd ⊢
    simp only [hd]

section
variable {s : State} (h : s.ready)
include h

theorem exec_execute (d : Device) (b : Nat) : exec (.execute d b) s = .next (executeOp d b s) :=
  guarded_ready h (executeOp d b)

theorem exec_runframe : exec .runframe s = .next (runFrame s) := guarded_ready h runFrame

theorem exec_framestart : exec .framestart s = .next (reply .none (frameStart s)) :=
  guarded_ready h fun y => reply .none (frameStart y)

theorem exec_linestep : exec .linestep s = .next (reply .none (lineStepIfLeft s)) :=
  guarded_ready h fun y => reply .none (lineStepIfLeft y)

theorem exec_padtimeout : exec .padtimeout s = .next (reply .none (padTimeoutStep s)) :=
  guarded_ready h fun y => reply .none (padTimeoutStep y)

theorem exec_padsample : exec .padsample s = .next (reply .none (padSample s)) :=
  guarded_ready h fun y => reply .none (padSample y)

theorem exec_timerstep : exec .timerstep s = .next (reply .none (timerStep s)) :=
  guarded_ready h fun y => reply .none (timerStep y)

theorem exec_hstep : exec .hstep s = .next (reply .none (hStep s)) :=
  guarded_ready h fun y => reply .none (hStep y)

theorem exec_slices : exec .slices s = .next (reply .none (slices s)) :=
  guarded_ready h fun y => reply .none (slices y)

theorem exec_snapshot : exec .snapshot s = .next (reply .none (snapshotStep s)) :=
  guarded_ready h fun y => reply .none (snapshotStep y)

theorem exec_vblankboundary : exec .vblankboundary s = .next (reply .none (vblankBoundary s)) :=
  guarded_ready h fun y => reply .none (vblankBoundary y)

theorem exec_runto (d : Device) (T : Nat) : exec (.runto d T) s = .next (reply .none (runTo d T s)) :=
  guarded_ready h fun y => reply .none (runTo d T y)

theorem exec_frameend : exec .frameend s = .next (frameEnd s) := guarded_ready h frameEnd

theorem exec_drawline (n : Int) : exec (.drawline n) s = .next (reply .none (drawStep n s)) :=
  guarded_ready h fun y => reply .none (drawStep n y)

end

/-- Settles O50: FRAMESTART is performed, and `frameStart` is the table of R266 field by field. -/
theorem frameStartTable : Obligations.FrameStart := fun _ hready => (exec_framestart hready).trans rfl

/-! The pads' timeouts (R267), pad by pad. -/

section
variable (c : Cfg) (b : Bus) (p : Nat)

theorem padTimeoutAt_only : padTimeoutAt c p b =
    { b with padPhase := (padTimeoutAt c p b).padPhase, padTimeout := (padTimeoutAt c p b).padTimeout } := by
  unfold padTimeoutAt
  split
  · rfl
  · dsimp only
    split <;> rfl

/-- A pad's phase and timeout after its step: not counted in phase 0, reverted at the limit. -/
def padCounted (k : BitVec 2) (n : Nat) : BitVec 2 × Nat :=
  if k = 0 then (k, n) else if c.padTimeoutLines ≤ n + 1 then (0, 0) else (k, n + 1)

/-- A pad's phase and timeout. -/
def padClock : BitVec 2 × Nat := (Memory.get 0 b.padPhase p, Memory.get 0 b.padTimeout p)

/-- The two tables of the pads are in canonical form. -/
def padTablesWf : Prop := Memory.wf 0 b.padPhase ∧ Memory.wf 0 b.padTimeout

variable {c b p}

theorem padTimeoutAt_wf (h : padTablesWf b) : padTablesWf (padTimeoutAt c p b) := by
  obtain ⟨hphase, htimeout⟩ := h
  unfold padTimeoutAt
  split
  · exact ⟨hphase, htimeout⟩
  · dsimp only
    split
    · exact ⟨Memory.wf_put _ _ hphase _ _, Memory.wf_put _ _ htimeout _ _⟩
    · exact ⟨hphase, Memory.wf_put _ _ htimeout _ _⟩

theorem padClock_padTimeoutAt_self (h : padTablesWf b) :
    padClock (padTimeoutAt c p b) p = padCounted c (Memory.get 0 b.padPhase p) (Memory.get 0 b.padTimeout p) := by
  obtain ⟨hphase, htimeout⟩ := h
  unfold padTimeoutAt padCounted padClock
  split
  · rfl
  · dsimp only
    split
    · simp only [Memory.get_put_self _ _ hphase, Memory.get_put_self _ _ htimeout]
    · simp only [Memory.get_put_self _ _ htimeout]

theorem padClock_padTimeoutAt_ne {q : Nat} (h : q ≠ p) : padClock (padTimeoutAt c p b) q = padClock b q := by
  unfold padTimeoutAt padClock
  split
  · rfl
  · dsimp only
    split
    · simp only [Memory.get_put_ne _ _ _ h]
    · simp only [Memory.get_put_ne _ _ _ h]

end

/-- The steps of the first `n` pads. -/
def padTimeouts (c : Cfg) (n : Nat) (b : Bus) : Bus := (List.range n).foldl (fun b p => padTimeoutAt c p b) b

theorem padTimeouts_succ (c : Cfg) (n : Nat) (b : Bus) :
    padTimeouts c (n + 1) b = padTimeoutAt c n (padTimeouts c n b) := by
  simp only [padTimeouts, List.range_succ, List.foldl_append, List.foldl_cons, List.foldl_nil]

theorem padTimeouts_only (c : Cfg) (n : Nat) (b : Bus) : padTimeouts c n b =
    { b with padPhase := (padTimeouts c n b).padPhase, padTimeout := (padTimeouts c n b).padTimeout } := by
  induction n with
  | zero => rfl
  | succ n ih => rw [padTimeouts_succ, padTimeoutAt_only, ih]

theorem padTimeouts_wf (c : Cfg) (n : Nat) {b : Bus} (h : padTablesWf b) : padTablesWf (padTimeouts c n b) := by
  induction n with
  | zero => exact h
  | succ n ih => exact padTimeouts_succ c n b ▸ padTimeoutAt_wf ih

/-- Each of the first `n` pads has made its own step once, and no other has. -/
theorem padClock_padTimeouts (c : Cfg) (n : Nat) {b : Bus} (h : padTablesWf b) (p : Nat) :
    padClock (padTimeouts c n b) p =
      if p < n then padCounted c (Memory.get 0 b.padPhase p) (Memory.get 0 b.padTimeout p) else padClock b p := by
  induction n with
  | zero => rfl
  | succ n ih =>
    rw [padTimeouts_succ]
    by_cases hp : p = n
    · subst hp
      rw [if_neg (Nat.lt_irrefl p)] at ih
      obtain ⟨hphase, htimeout⟩ := Prod.mk.inj ih
      rw [padClock_padTimeoutAt_self (padTimeouts_wf c p h), if_pos (Nat.lt_succ_self p), hphase, htimeout]
    · rw [padClock_padTimeoutAt_ne hp, ih]
      by_cases hlt : p < n
      · rw [if_pos hlt, if_pos (by omega)]
      · rw [if_neg hlt, if_neg (by omega)]

theorem padTimeoutStep_eq (s : State) : padTimeoutStep s = setBus s (padTimeouts s.cfg s.cfg.nPads s.bus) := rfl

/-- Settles O51: each pad below `N_PADS` makes its own step; the sample is the mailbox's. -/
theorem padStepsOfALine : Obligations.PadStepsOfALine := by
  refine ⟨fun s hready hphase htimeout => ?_, fun s hready => (exec_padsample hready).trans rfl⟩
  refine ⟨(padTimeouts s.cfg s.cfg.nPads s.bus).padPhase, (padTimeouts s.cfg s.cfg.nPads s.bus).padTimeout, ?_,
    fun p => ?_⟩
  · rw [exec_padtimeout hready, padTimeoutStep_eq, padTimeouts_only]
    rfl
  · have clock := padClock_padTimeouts s.cfg s.cfg.nPads ⟨hphase, htimeout⟩ p
    unfold padCounted padClock at clock
    refine ⟨fun hout => ?_, fun hp hk hn => ?_, fun hp hk hn => ?_⟩
    · obtain hp | hk := hout
      · rw [if_neg (by omega)] at clock
        exact Prod.mk.inj clock
      · rw [if_pos hk, ite_self] at clock
        exact Prod.mk.inj clock
    · rw [if_pos hp, if_neg hk, if_neg (by omega)] at clock
      exact Prod.mk.inj clock
    · rw [if_pos hp, if_neg hk, if_pos hn] at clock
      exact Prod.mk.inj clock

/-! The horizontal step (R272). -/

/-- The Active phase is the lines between the picture's two bounds (R261). -/
theorem phaseOf_active {c : Cfg} {l : Nat} {x : Std} :
    phaseOf c l x = some .active ↔ c.activeStart.get x ≤ l ∧ l < c.vblankStart.get x := by
  unfold phaseOf
  by_cases htop : l < c.activeStart.get x
  · rw [if_pos htop]
    exact iff_of_false nofun (by omega)
  · rw [if_neg htop]
    by_cases hactive : l < c.vblankStart.get x
    · rw [if_pos hactive]
      exact iff_of_true rfl (by omega)
    · rw [if_neg hactive]
      refine iff_of_false ?_ (by omega)
      split
      · nofun
      · split
        · nofun
        · split <;> nofun

@[simp] theorem hCount_fault (s : State) : (hCount s).fault = s.fault := by
  unfold hCount
  split <;> rfl

theorem State.ready.hCount {s : State} (h : s.ready) : (hCount s).ready :=
  ⟨(hCount_cfg s).symm ▸ h.1, (hCount_fault s).trans h.2⟩

/-- Settles O53: by the line's phase, and then by the counter. -/
theorem horizontalStep : Obligations.HorizontalStep := by
  intro s hready active
  refine ⟨fun hout => ?_, fun hin => ⟨_, exec_hstep hready, ?_⟩⟩
  · rw [exec_hstep hready, hStep, if_neg (mt phaseOf_active.mp hout)]
    rfl
  · rintro n rfl
    have draw := exec_drawline hready.hCount (s.sched.line - s.cfg.activeStart.get s.sched.std)
    rw [hStep, if_pos (phaseOf_active.mpr hin)]
    constructor
    · intro hcnt
      rw [hCount, if_neg (by omega)] at draw ⊢
      exact draw
    · intro hcnt
      rw [hCount, if_pos hcnt] at draw ⊢
      exact draw

/-! The palette snapshot (R276): 64 rows of four bytes. -/

/-- An entry of a table written row by row, every row of one length. -/
theorem getElem?_flatMap_range {α : Type} {f : Nat → List α} {w : Nat} (hw : ∀ i, (f i).length = w) {n i k : Nat}
    (hi : i < n) (hk : k < w) : ((List.range n).flatMap f)[w * i + k]? = (f i)[k]? := by
  have length (m : Nat) : ((List.range m).flatMap f).length = w * m := by
    induction m with
    | zero => rfl
    | succ m ih =>
      rw [List.range_succ, List.flatMap_append, List.length_append, ih, List.flatMap_singleton, hw, Nat.mul_succ]
  induction n with
  | zero => omega
  | succ n ih =>
    rw [List.range_succ, List.flatMap_append]
    by_cases hin : i < n
    · have below : w * i + k < w * n :=
        Nat.lt_of_lt_of_le (Nat.add_lt_add_left hk _) (Nat.mul_succ w i ▸ Nat.mul_le_mul_left w hin)
      rw [List.getElem?_append_left (by rwa [length]), ih hin]
    · obtain rfl : i = n := by omega
      rw [List.getElem?_append_right (by rw [length]; omega), length]
      simp

/-- The snapshot's four bytes of colour `i`. -/
def snapshotRow (c : Cfg) (v : Vdp) (i : Nat) : List Byte :=
  if i < c.cramN then
    [exp3 (field (Memory.get 0 v.cram i) 1 3), exp3 (field (Memory.get 0 v.cram i) 5 3),
      exp3 (field (Memory.get 0 v.cram i) 9 3), 0]
  else [0, 0, 0, 0]

theorem snapshotRow_length (c : Cfg) (v : Vdp) (i : Nat) : (snapshotRow c v i).length = 4 := by
  unfold snapshotRow
  split <;> rfl

theorem snapshotRow_getElem? (c : Cfg) (v : Vdp) (i : Nat) {k : Nat} (hk : k < 4) :
    (snapshotRow c v i)[k]? = some
      (if c.cramN ≤ i ∨ k = 3 then 0 else exp3 (field (Memory.get 0 v.cram i) (4 * k + 1) 3)) := by
  unfold snapshotRow
  by_cases hi : i < c.cramN
  · rw [if_pos hi]
    match k, hk with
    | 0, _ | 1, _ | 2, _ => rw [if_neg (by omega)]; rfl
    | 3, _ => rw [if_pos (.inr rfl)]; rfl
  · rw [if_neg hi, if_pos (.inl (by omega))]
    match k, hk with
    | 0, _ | 1, _ | 2, _ | 3, _ => rfl

theorem snapshotBytes_eq (c : Cfg) (v : Vdp) : snapshotBytes c v = (List.range 64).flatMap (snapshotRow c v) := rfl

/-- Settles O54: the boundary is performed as it stands; the snapshot is read back row by row. -/
theorem vblankBoundaryAndSnapshot : Obligations.VblankBoundaryAndSnapshot := by
  intro s hready
  refine ⟨(exec_vblankboundary hready).trans rfl, _, (exec_snapshot hready).trans rfl, fun i hi k hk => ?_⟩
  have row := (getElem?_flatMap_range (snapshotRow_length s.cfg s.vdp) hi hk).trans
    (snapshotRow_getElem? s.cfg s.vdp i hk)
  rw [← snapshotBytes_eq] at row
  obtain ⟨hlt, hbyte⟩ := List.getElem?_eq_some_iff.mp row
  rw [Memory.get_ofList_zero 0 _ hlt, hbyte]
  rfl

end Sys2Proof.Machine

/-! ### One `Execute` call (41_frame_scheduler.md R280, R284): its events are the rows they name, up to the first breach
of the contract. -/

namespace Sys2Proof.Machine

theorem raiseFault_of_none {s : State} (h : s.fault = none) (f : Fault) :
    raiseFault f s = { s with fault := some f } := by
  rw [raiseFault, h, Option.getD_none]

/-- An operation of a device's engine at its stamp. -/
def deviceOp : Device → Nat → EngOp → State → State
  | .main => mainOp
  | .aux => auxOp

theorem engineOp_eq (d : Device) (last t : Nat) (o : EngOp) (s : State) : engineOp d last t o s =
    if t < last then raiseFault (.engineStamp d) s else proceed (deviceOp d t o s) noteResp := by
  cases d <;> rfl

theorem deviceOp_call (d : Device) (t : Nat) (o : EngOp) (s : State) : OnlyCall s (deviceOp d t o s) := by
  cases d
  · exact mainOp_call t o s
  · exact auxOp_call t o s

@[simp] theorem intAck_fault (n : Nat) (s : State) : (intAck n s).2.fault = s.fault := by
  obtain ⟨h, v, f, e⟩ := intAck_only n s
  rw [e]
  rfl

/-- The row of an AUX-port read is one of the six. -/
theorem auxReadRow_mem (a : AuxAddr) (t : Nat) : auxReadRow a t ∈ [.ardZram a t, .ardFm a t, .ardBanksel a t,
    .ardVdpwin a t, .ardBankwin a t, .ardNone a t] := by
  unfold auxReadRow
  iterate 5 (split; · simp only [List.mem_cons, true_or, or_true])
  simp only [List.mem_cons, true_or, or_true]

/-- The row of an AUX-port write is one of the six. -/
theorem auxWriteRow_mem (a : AuxAddr) (v : Byte) (t : Nat) : auxWriteRow a v t ∈ [.awrZram a v t, .awrFm a v t,
    .awrBanksel a v t, .awrVdpwin a v t, .awrBankwin a v t, .awrNone a v t] := by
  unfold auxWriteRow
  iterate 5 (split; · simp only [List.mem_cons, true_or, or_true])
  simp only [List.mem_cons, true_or, or_true]

theorem exec_ackSpurious {s : State} (h : s.ready) (l : BitVec 3) :
    exec (.ackSpurious l) s = .next (replyAck (intAck l.toNat s)) :=
  guarded_ready h fun y => replyAck (intAck l.toNat y)

theorem exec_hostRow {s : State} (h : s.ready) (w : HostSet) : exec (hostRow w) s = .next (hostSetOp w s) := by
  cases w <;> exact guarded_ready h (hostSetOp _)

/-! An operation that has a row does what the row does and records no fault; one that has none is another agent's. -/

section
variable {d : Device} {t : Nat} {o : EngOp}

theorem exec_engineRow {s : State} (h : s.ready) {i : Instr} (hrow : engineRow d t o = some i) :
    exec i s = .next (deviceOp d t o s) := by
  cases d <;> cases o <;> cases hrow
  case main.rd8 a => exact exec_rd8 h ⟨.main, t⟩ a
  case main.rd16 a => exact exec_rd16 h ⟨.main, t⟩ a
  case main.wr8 a v => exact exec_wr8 h ⟨.main, t⟩ a v
  case main.wr16 a v => exact exec_wr16 h ⟨.main, t⟩ a v
  case main.ack l => exact exec_ackSpurious h l
  case aux.ard8 a => exact exec_auxRead h a t (auxReadRow_mem a t)
  case aux.awr8 a v => exact exec_auxWrite h a t v (auxWriteRow_mem a v t)

theorem deviceOp_fault_of_row (s : State) {i : Instr} (hrow : engineRow d t o = some i) :
    (deviceOp d t o s).fault = s.fault := by
  cases d <;> cases o <;> cases hrow
  case main.rd8 a => exact (busRd8_only a s).devices.fault
  case main.rd16 a => exact (busRd16_only a s).devices.fault
  case main.wr8 a v => exact (busWr8_only (nowUs s .main t) a v s).fault
  case main.wr16 a v => exact (busWr16_only (nowUs s .main t) a v s).fault
  case main.ack l => exact intAck_fault l.toNat s
  case aux.ard8 a => exact (auxRd8_only a s).devices.fault
  case aux.awr8 a v => exact (auxWr8_only (nowUs s .aux t) a v s).fault

theorem deviceOp_of_no_row (s : State) (hrow : engineRow d t o = none) :
    deviceOp d t o s = raiseFault (.engineAgent d) s := by
  cases d <;> cases o <;> cases hrow <;> rfl

end

/-- An event of the device's own, at a stamp that does not fall, leaves a ready state and is performed by its row. -/
theorem engineEvent_own {d : Device} {last : Nat} {e : Event} {s : State} (h : s.ready) (hown : ownEvent d e = true)
    (hstamp : last ≤ stampAfter last e) : (engineEvent d last e s).ready ∧
      ∀ r, performed d (e :: r) s = performed d r (engineEvent d last e s) := by
  cases e with
  | op t o =>
    have hstamp : last ≤ t := hstamp
    obtain ⟨i, hrow⟩ := Option.isSome_iff_exists.mp hown
    have hfault : (deviceOp d t o s).fault = none := (deviceOp_fault_of_row s hrow).trans h.2
    have hevent : engineEvent d last (.op t o) s = noteResp (deviceOp d t o s) := by
      rw [engineEvent, engineOp_eq, if_neg (Nat.not_lt.mpr hstamp), proceed_none _ _ hfault]
    rw [hevent]
    exact ⟨⟨(deviceOp_call d t o s).cfg ▸ h.1, hfault⟩, fun r => by
      simp only [performed, hrow, Option.map_some, exec_engineRow h hrow, noteResp]⟩
  | look =>
    obtain rfl : d = .main := of_decide_eq_true hown
    exact ⟨h, fun r => rfl⟩
  | host w => exact ⟨h, fun r => by simp only [performed, exec_hostRow h]; rfl⟩

/-! The stamps of a call, from the stamp `last` on: rising means that the list with `last` in front is. -/

theorem rising_cons {last : Nat} {e : Event} {r : List Event}
    (h : (last :: eventStamps (e :: r)).Pairwise (· ≤ ·)) :
    last ≤ stampAfter last e ∧ (stampAfter last e :: eventStamps r).Pairwise (· ≤ ·) := by
  cases e with
  | op t o => exact ⟨(List.pairwise_cons.mp h).1 t List.mem_cons_self, (List.pairwise_cons.mp h).2⟩
  | look => exact ⟨Nat.le_refl _, h⟩
  | host w => exact ⟨Nat.le_refl _, h⟩

/-- The stamp that stands after rising events is the highest of them. -/
theorem foldl_stampAfter_le {l : List Event} {last c : Nat} (h : (last :: eventStamps l).Pairwise (· ≤ ·)) :
    l.foldl stampAfter last ≤ c ↔ last ≤ c ∧ ∀ t ∈ eventStamps l, t ≤ c := by
  induction l generalizing last with
  | nil => simp [eventStamps]
  | cons e r ih =>
    obtain ⟨hstamp, hr⟩ := rising_cons h
    rw [List.foldl_cons, ih hr]
    cases e with
    | op t o =>
      simp only [stampAfter, eventStamps, List.mem_cons, forall_eq_or_imp] at hstamp ⊢
      exact ⟨fun k => ⟨Nat.le_trans hstamp k.1, k⟩, And.right⟩
    | look | host => rfl

/-- Events of the device's own at rising stamps are performed by their rows, and a call goes on after them. -/
theorem runEvents_append {d : Device} {pre : List Event} {last : Nat} {s : State} (h : s.ready)
    (hown : ∀ e ∈ pre, ownEvent d e = true) (hrise : (last :: eventStamps pre).Pairwise (· ≤ ·)) :
    ∃ u, performed d pre s = some u ∧ u.ready ∧
      ∀ post, runEvents d (pre ++ post) last s = runEvents d post (pre.foldl stampAfter last) u := by
  induction pre generalizing last s with
  | nil => exact ⟨s, rfl, h, fun _ => rfl⟩
  | cons e r ih =>
    obtain ⟨hstamp, hr⟩ := rising_cons hrise
    obtain ⟨hready, hperf⟩ := engineEvent_own h (hown e List.mem_cons_self) hstamp
    obtain ⟨u, hu, hu_ready, hrun⟩ := ih hready (fun x hx => hown x (List.mem_cons_of_mem e hx)) hr
    refine ⟨u, (hperf r).trans hu, hu_ready, fun post => ?_⟩
    rw [List.cons_append, runEvents]
    simp only [hready.2, if_true, hrun, List.foldl_cons]

/-- An event that records a fault ends the call there. -/
theorem runEvents_of_fault {d : Device} {e : Event} {last : Nat} {u : State} {f : Fault}
    (h : engineEvent d last e u = raiseFault f u) (post : List Event) :
    runEvents d (e :: post) last u = (last, raiseFault f u) := by
  rw [runEvents]
  simp [h]

/-! The call itself. -/

theorem takeCall_of_recorded {d : Device} {s : State} {k : EngCall} {rest : List EngCall}
    (h : s.engines.get d = k :: rest) :
    takeCall d s = { s with engines := s.engines.set d rest, calls := s.calls + 1, engResps := [] } := by
  rw [takeCall, h, List.tail_cons]

theorem execCall_of_recorded {d : Device} {s : State} {k : EngCall} {rest : List EngCall}
    (h : s.engines.get d = k :: rest) (b : Nat) : execCall d b s = (k.consumed,
      proceed (runEvents d k.events 0 (takeCall d s)).2
        (checkReturn d b k.consumed (runEvents d k.events 0 (takeCall d s)).1)) := by
  simp only [execCall, callBody, h]

theorem executeOp_of_fault {d : Device} {b : Nat} {s : State} (h : (execCall d b s).2.fault ≠ none) :
    executeOp d b s = (execCall d b s).2 := proceed_some _ _ h

theorem executeOp_of_no_fault {d : Device} {b : Nat} {s : State} (h : (execCall d b s).2.fault = none) :
    executeOp d b s = reply (.consumed (execCall d b s).1) (execCall d b s).2 := proceed_none _ _ h

section
variable {d : Device} {s u : State} {ev : List Event} {c last : Nat} {rest : List EngCall}
  (h : s.engines.get d = ⟨ev, c⟩ :: rest) (hu : u.fault = none)
include h hu

/-- A call whose events end in a fault is ended by it. -/
theorem executeOp_of_breach {f : Fault} (hrun : runEvents d ev 0 (takeCall d s) = (last, raiseFault f u)) (b : Nat) :
    executeOp d b s = { u with fault := some f } := by
  have hfault : (raiseFault f u).fault ≠ none := by simp
  have hcall : execCall d b s = (c, raiseFault f u) := by
    rw [execCall_of_recorded h, hrun, proceed_some _ _ hfault]
  rw [executeOp_of_fault (by rwa [hcall]), hcall, raiseFault_of_none hu]

/-- A call whose events record no fault is checked at its return. -/
theorem execCall_of_run (hrun : runEvents d ev 0 (takeCall d s) = (last, u)) (b : Nat) :
    execCall d b s = (c, checkReturn d b c last u) := by
  rw [execCall_of_recorded h, hrun, proceed_none _ _ hu]

theorem executeOp_returns (hrun : runEvents d ev 0 (takeCall d s) = (last, u)) {b : Nat} (hlast : last ≤ c)
    (hc : c ≤ b) : executeOp d b s = { u with resp := .consumed c } := by
  have hcall : execCall d b s = (c, u) := by
    rw [execCall_of_run h hu hrun, checkReturn, if_neg (by omega), if_neg (by omega)]
  rw [executeOp_of_no_fault (by rwa [hcall]), hcall]
  rfl

theorem executeOp_overruns (hrun : runEvents d ev 0 (takeCall d s) = (last, u)) {b : Nat} (hlast : last ≤ c)
    (hc : b < c) : executeOp d b s = { u with fault := some (.engineOverrun d b c) } := by
  have hcall : execCall d b s = (c, raiseFault (.engineOverrun d b c) u) := by
    rw [execCall_of_run h hu hrun, checkReturn, if_neg (by omega), if_pos hc]
  rw [executeOp_of_fault (by simp [hcall]), hcall, raiseFault_of_none hu]

theorem executeOp_lateStamp (hrun : runEvents d ev 0 (takeCall d s) = (last, u)) (b : Nat) (hlast : c < last) :
    executeOp d b s = { u with fault := some (.engineStamp d) } := by
  have hcall : execCall d b s = (c, raiseFault (.engineStamp d) u) := by
    rw [execCall_of_run h hu hrun, checkReturn, if_pos hlast]
  rw [executeOp_of_fault (by simp [hcall]), hcall, raiseFault_of_none hu]

end

/-- Settles O45: the events before the first breach are performed by their rows; then the breach is the next event's, or
the return's. -/
theorem engineContract : Obligations.EngineContract := by
  intro s d b c ev rest hready hrec start good ends
  have hstart : start = takeCall d s := (takeCall_of_recorded hrec).symm
  have hready' : (takeCall d s).ready := hready
  have rising {l : List Event} (hl : good l) : (0 :: eventStamps l).Pairwise (· ≤ ·) :=
    List.pairwise_cons.mpr ⟨fun _ _ => Nat.zero_le _, hl.2⟩
  have exec_eq := exec_execute hready d b
  simp only [hstart, ends, exec_eq, Host.Outcome.next.injEq]
  constructor
  · intro hgood
    obtain ⟨u, hperf, hu, hrun⟩ := runEvents_append hready' hgood.1 (rising hgood)
    have hrun : runEvents d ev 0 (takeCall d s) = (ev.foldl stampAfter 0, u) := by simpa [runEvents] using hrun []
    have hlast {c : Nat} := foldl_stampAfter_le (c := c) (rising hgood)
    refine ⟨u, hperf, hu.2, fun hstamps hc => ?_, fun hstamps hc => ?_, fun ⟨t, ht, hc⟩ => ?_⟩
    · exact executeOp_returns hrec hu.2 hrun (hlast.mpr ⟨Nat.zero_le _, hstamps⟩) hc
    · exact executeOp_overruns hrec hu.2 hrun (hlast.mpr ⟨Nat.zero_le _, hstamps⟩) hc
    · exact executeOp_lateStamp hrec hu.2 hrun b (Nat.lt_of_lt_of_le hc ((hlast.mp (Nat.le_refl _)).2 t ht))
  · rintro pre e post rfl hgood
    obtain ⟨u, hperf, hu, hrun⟩ := runEvents_append hready' hgood.1 (rising hgood)
    have hlast {c : Nat} := foldl_stampAfter_le (c := c) (rising hgood)
    have breach {f : Fault} (hf : engineEvent d (pre.foldl stampAfter 0) e u = raiseFault f u) :
        executeOp d b s = { u with fault := some f } :=
      executeOp_of_breach hrec hu.2 ((hrun (e :: post)).trans (runEvents_of_fault hf post)) b
    refine ⟨u, hperf, ?_, ?_, ?_⟩
    · rintro t o rfl ⟨x, hx, hlt⟩
      refine breach ?_
      rw [engineEvent, engineOp_eq, if_pos (Nat.lt_of_lt_of_le hlt ((hlast.mp (Nat.le_refl _)).2 x hx))]
    · rintro t o rfl hstamps hrow
      refine breach ?_
      rw [engineEvent, engineOp_eq, if_neg (Nat.not_lt.mpr (hlast.mpr ⟨Nat.zero_le _, hstamps⟩)),
        deviceOp_of_no_row u hrow, proceed_some _ _ (by simp)]
    · rintro rfl rfl
      exact breach rfl

end Sys2Proof.Machine

/-! ### RUNTO (41_frame_scheduler.md R280): the target, the one call it may make, and the odometer. -/

namespace Sys2Proof.Machine

/-! What an `Execute` call changes: the call taken, and what the call's events can reach. -/

theorem checkReturn_call (d : Device) (b c last : Nat) (s : State) : OnlyCall s (checkReturn d b c last s) := by
  unfold checkReturn
  split
  · rfl
  · split <;> rfl

theorem execCall_call (d : Device) (b : Nat) (s : State) : OnlyCall (takeCall d s) (execCall d b s).2 :=
  proceed_keeps (P := OnlyCall (takeCall d s)) (callBody_call d b s) fun h => h.trans (checkReturn_call ..)

section
variable {s t : State} (h : OnlyCall s t)
include h

theorem OnlyCall.sched : t.sched = { s.sched with irqH := t.sched.irqH, irqV := t.sched.irqV } := by
  unfold OnlyCall at h
  exact congrArg State.sched h

theorem OnlyCall.odo : t.sched.odo = s.sched.odo := by rw [h.sched]

theorem OnlyCall.tgt : t.sched.tgt = s.sched.tgt := by rw [h.sched]

theorem OnlyCall.calls : t.calls = s.calls := by
  unfold OnlyCall at h
  rw [h]

theorem OnlyCall.engines : t.engines = s.engines := by
  unfold OnlyCall at h
  rw [h]

theorem OnlyCall.synths : t.synths = s.synths := by
  unfold OnlyCall at h
  rw [h]

end

theorem checkReturn_fault_of_lt {d : Device} {b c last : Nat} {s : State} (h : b < c) :
    (checkReturn d b c last s).fault ≠ none := by
  rw [checkReturn, if_pos h]
  split <;> simp

/-- A call that records no fault answers a count within its budget. -/
theorem execCall_count_le {d : Device} {b : Nat} {s : State} (h : (execCall d b s).2.fault = none) :
    (execCall d b s).1 ≤ b := by
  refine Nat.le_of_not_lt fun hover => ?_
  have h : (proceed (callBody d b s).2.2 (checkReturn d b (callBody d b s).1 (callBody d b s).2.1)).fault = none := h
  by_cases hbody : (callBody d b s).2.2.fault = none
  · rw [proceed_none _ _ hbody] at h
    exact checkReturn_fault_of_lt hover h
  · rw [proceed_some _ _ hbody] at h
    exact hbody h

/-- The target of a device set. -/
def aim (d : Device) (T : Nat) (s : State) : State := setSched s { s.sched with tgt := s.sched.tgt.set d T }

theorem State.ready.aim {s : State} (h : s.ready) (d : Device) (T : Nat) : (aim d T s).ready := h

section
variable {d : Device} {T : Nat} {s : State}

theorem runTo_reached (h : T ≤ s.sched.odo.get d) : runTo d T s = aim d T s := if_neg (Nat.not_lt.mpr h)

theorem runTo_runs (h : s.sched.odo.get d < T) : runTo d T s =
    proceed (execCall d (T - s.sched.odo.get d) (aim d T s)).2
      (addOdo d (execCall d (T - s.sched.odo.get d) (aim d T s)).1) := if_pos h

theorem runTo_of_fault (h : s.sched.odo.get d < T)
    (hf : (execCall d (T - s.sched.odo.get d) (aim d T s)).2.fault ≠ none) :
    runTo d T s = (execCall d (T - s.sched.odo.get d) (aim d T s)).2 := by
  rw [runTo_runs h, proceed_some _ _ hf]

theorem runTo_of_no_fault (h : s.sched.odo.get d < T)
    (hf : (execCall d (T - s.sched.odo.get d) (aim d T s)).2.fault = none) :
    runTo d T s = addOdo d (execCall d (T - s.sched.odo.get d) (aim d T s)).1
      (execCall d (T - s.sched.odo.get d) (aim d T s)).2 := by
  rw [runTo_runs h, proceed_none _ _ hf]

/-- What every call RUNTO may make, and the count added after it, keep, holds after RUNTO. -/
theorem runTo_keeps {P : State → Prop} (haim : P (aim d T s)) (hcall : ∀ b u, P u → P (execCall d b u).2)
    (hadd : ∀ c u, P u → P (addOdo d c u)) : P (runTo d T s) := by
  obtain h | h := Nat.lt_or_ge (s.sched.odo.get d) T
  · exact runTo_runs h ▸ proceed_keeps (hcall _ _ haim) (hadd _ _)
  · exact runTo_reached h ▸ haim

theorem runTo_tgt : (runTo d T s).sched.tgt = s.sched.tgt.set d T :=
  runTo_keeps (P := fun u => u.sched.tgt = s.sched.tgt.set d T) rfl
    (fun b u h => (execCall_call d b u).tgt.trans h) (fun _ _ h => h)

/-- A call is made exactly below the target. -/
theorem runTo_record_of_lt (h : s.sched.odo.get d < T) : (runTo d T s).calls = s.calls + 1 ∧
    (runTo d T s).engines = s.engines.set d (s.engines.get d).tail := by
  have hcall := execCall_call d (T - s.sched.odo.get d) (aim d T s)
  rw [runTo_runs h]
  exact proceed_keeps (P := fun u => u.calls = s.calls + 1 ∧ u.engines = s.engines.set d (s.engines.get d).tail)
    ⟨hcall.calls, hcall.engines⟩ id

/-- The odometer of the device goes up to the target at most, and no other moves. -/
theorem runTo_odo (h : (runTo d T s).fault = none) : s.sched.odo.get d ≤ (runTo d T s).sched.odo.get d ∧
    (runTo d T s).sched.odo.get d ≤ max T (s.sched.odo.get d) ∧
    ∀ e, e ≠ d → (runTo d T s).sched.odo.get e = s.sched.odo.get e := by
  obtain hlt | hle := Nat.lt_or_ge (s.sched.odo.get d) T
  · have hodo : _ = s.sched.odo := (execCall_call d (T - s.sched.odo.get d) (aim d T s)).odo
    by_cases hf : (execCall d (T - s.sched.odo.get d) (aim d T s)).2.fault = none
    · have hcount := execCall_count_le hf
      rw [runTo_of_no_fault hlt hf]
      simp only [addOdo, setSched_sched, hodo, PerDev.get_set]
      exact ⟨by omega, by omega, fun e he => PerDev.get_set_ne _ _ he⟩
    · rw [runTo_of_fault hlt hf] at h
      exact absurd h hf
  · rw [runTo_reached hle]
    exact ⟨Nat.le_refl _, Nat.le_max_right .., fun _ _ => rfl⟩

/-- A fault leaves the odometers where they were. -/
theorem runTo_odo_of_fault (hs : s.fault = none) (h : (runTo d T s).fault ≠ none) :
    (runTo d T s).sched.odo = s.sched.odo := by
  obtain hlt | hle := Nat.lt_or_ge (s.sched.odo.get d) T
  · by_cases hf : (execCall d (T - s.sched.odo.get d) (aim d T s)).2.fault = none
    · rw [runTo_of_no_fault hlt hf] at h
      exact absurd hf h
    · rw [runTo_of_fault hlt hf]
      exact (execCall_call d _ (aim d T s)).odo
  · rw [runTo_reached hle] at h
    exact absurd hs h

/-- A call without events that keeps its budget adds its count. -/
theorem runTo_of_silent {c : Nat} {rest : List EngCall} (hs : s.fault = none)
    (hrec : s.engines.get d = ⟨[], c⟩ :: rest) (h : s.sched.odo.get d < T) (hc : c ≤ T - s.sched.odo.get d) :
    runTo d T s = addOdo d c (takeCall d (aim d T s)) := by
  have hcall : execCall d (T - s.sched.odo.get d) (aim d T s) = (c, takeCall d (aim d T s)) := by
    rw [execCall_of_run (s := aim d T s) (u := takeCall d (aim d T s)) hrec hs rfl, checkReturn,
      if_neg (Nat.not_lt_zero c), if_neg (by omega)]
  rw [runTo_of_no_fault h (by rwa [hcall]), hcall]

/-- A call without events that overruns its budget records the fault. -/
theorem runTo_of_overrun {c : Nat} {rest : List EngCall} (hs : s.fault = none)
    (hrec : s.engines.get d = ⟨[], c⟩ :: rest) (h : s.sched.odo.get d < T) (hc : T - s.sched.odo.get d < c) :
    (runTo d T s).fault = some (.engineOverrun d (T - s.sched.odo.get d) c) := by
  have hcall : execCall d (T - s.sched.odo.get d) (aim d T s) =
      (c, raiseFault (.engineOverrun d (T - s.sched.odo.get d) c) (takeCall d (aim d T s))) := by
    rw [execCall_of_run (s := aim d T s) (u := takeCall d (aim d T s)) hrec hs rfl, checkReturn,
      if_neg (Nat.not_lt_zero c), if_pos hc]
  have htaken : (takeCall d (aim d T s)).fault = none := hs
  rw [runTo_of_fault h (by simp [hcall]), hcall, raiseFault_of_none htaken]

end

/-- Settles O46: by the odometer against the target, and then by whether the call records a fault. -/
theorem runToArbitrates : Obligations.RunToArbitrates := by
  intro s d T hready at_
  refine ⟨_, exec_runto hready d T, runTo_tgt, fun hle => ?_, fun hlt => ?_⟩
  · rw [runTo_reached hle]
    rfl
  refine ⟨(runTo_record_of_lt hlt).1, fun hf => ?_, runTo_odo_of_fault hready.2, ?_,
    fun c rest hrec => ⟨fun hc => ?_, runTo_of_overrun hready.2 hrec hlt⟩⟩
  · obtain ⟨hup, hmax, hother⟩ := runTo_odo hf
    rw [Nat.max_eq_left (Nat.le_of_lt hlt)] at hmax
    exact ⟨hup, hmax, hother⟩
  · refine ⟨_, exec_execute (hready.aim d T) d _, ?_⟩
    by_cases hf : (execCall d (T - s.sched.odo.get d) (aim d T s)).2.fault = none
    · rw [executeOp_of_no_fault hf, runTo_of_no_fault hlt hf]
      refine ⟨fun h => absurd hf h, fun _ => ⟨_, rfl, rfl⟩⟩
    · rw [executeOp_of_fault hf, runTo_of_fault hlt hf]
      exact ⟨fun _ => rfl, fun h => absurd h hf⟩
  · rw [runTo_of_silent hready.2 hrec hlt hc, takeCall_of_recorded (s := aim d T s) hrec]
    rfl

end Sys2Proof.Machine

/-! ### The response of the operation before it is read by no step of a frame. The rows of a frame each set the response
(30_encoding.md R140 to R143); inside a frame the same steps run without doing so, and end in the same state but for
it. -/

namespace Sys2Proof.Machine

@[simp] theorem nowUs_reply (r : Resp) (s : State) (d : Device) (t : Nat) : nowUs (reply r s) d t = nowUs s d t := rfl

@[simp] theorem busWr16_reply (now : Nat) (a : Addr) (v : Half) (r : Resp) (s : State) :
    busWr16 now a v (reply r s) = reply r (busWr16 now a v s) := by
  have split : splitWr16 now a v (reply r s) = reply r (splitWr16 now a v s) := by
    simp only [splitWr16, busWr8_reply]
  unfold busWr16
  rw [reply_cfg, reply_bus]
  cases region s.cfg s.bus a with
  | vdp o =>
    dsimp only
    cases vdpPort o with
    | data => rfl
    | ctrl => exact ctrlPortWrite16_reply v r s
    | psg | none => exact split
  | rom | sram | ram | zram | fm | banksel | io | sramctl | unmapped => exact split

@[simp] theorem auxRd8_reply (a : AuxAddr) (r : Resp) (s : State) :
    auxRd8 a (reply r s) = ((auxRd8 a s).1, reply r (auxRd8 a s).2) := by
  unfold auxRd8
  rw [reply_cfg, reply_bus]
  cases auxTarget s.cfg s.bus.bank a with
  | main m => exact busRd8_reply m r s
  | zram | fm | banksel | none => rfl

@[simp] theorem auxWr8_reply (now : Nat) (a : AuxAddr) (v : Byte) (r : Resp) (s : State) :
    auxWr8 now a v (reply r s) = reply r (auxWr8 now a v s) := by
  unfold auxWr8
  rw [reply_cfg, reply_bus]
  cases auxTarget s.cfg s.bus.bank a with
  | main m => exact busWr8_reply now m v r s
  | zram | fm | banksel | none => rfl

@[simp] theorem intAck_reply (n : Nat) (r : Resp) (s : State) :
    intAck n (reply r s) = ((intAck n s).1, reply r (intAck n s).2) := by
  unfold intAck
  rw [reply_cfg, reply_sched, reply_vdp]
  by_cases hv : (n = s.cfg.vintLevel && s.sched.irqV && vintEn s.vdp) = true
  · rw [if_pos hv, if_pos hv]
    rfl
  · rw [if_neg hv, if_neg hv]
    by_cases hh : (n = s.cfg.hintLevel && s.sched.irqH && hintEn s.vdp) = true
    · rw [if_pos hh, if_pos hh]
      rfl
    · rw [if_neg hh, if_neg hh]

/-- An operation of the device's own sets the response itself. -/
theorem deviceOp_reply_of_row {d : Device} {t : Nat} {o : EngOp} {i : Instr} (hrow : engineRow d t o = some i)
    (r : Resp) (s : State) : deviceOp d t o (reply r s) = deviceOp d t o s := by
  cases d <;> cases o <;> cases hrow <;>
    simp only [deviceOp, mainOp, auxOp, replyByte, replyWord, replyAck, nowUs_reply, busRd8_reply, busRd16_reply,
      busWr8_reply, busWr16_reply, intAck_reply, auxRd8_reply, auxWr8_reply, reply_reply]

/-- The operation does the same whatever the response before it was, but for the response it leaves. -/
def IgnoresResp (f : State → State) : Prop := ∀ r s, ∃ q, f (reply r s) = reply q (f s)

theorem IgnoresResp.proceed {f g : State → State} (hf : IgnoresResp f) (hg : IgnoresResp g) :
    IgnoresResp fun s => proceed (f s) g := fun r s => by
  obtain ⟨q, hq⟩ := hf r s
  simp only [hq]
  by_cases h : (f s).fault = none
  · rw [proceed_none _ _ h, proceed_none _ _ (show (reply q (f s)).fault = none from h)]
    exact hg q (f s)
  · rw [proceed_some _ _ h, proceed_some _ _ (show (reply q (f s)).fault ≠ none from h)]
    exact ⟨q, rfl⟩

theorem IgnoresResp.comp {f g : State → State} (hg : IgnoresResp g) (hf : IgnoresResp f) :
    IgnoresResp fun s => g (f s) := fun r s => by
  obtain ⟨q, hq⟩ := hf r s
  simp only [hq]
  exact hg q (f s)

theorem engineOp_ignoresResp (d : Device) (last t : Nat) (o : EngOp) : IgnoresResp (engineOp d last t o) := by
  intro r s
  rw [engineOp_eq, engineOp_eq]
  split
  · exact ⟨r, rfl⟩
  · cases hrow : engineRow d t o with
    | some i =>
      rw [deviceOp_reply_of_row hrow]
      exact ⟨(Machine.proceed (deviceOp d t o s) noteResp).resp, rfl⟩
    | none =>
      rw [deviceOp_of_no_row _ hrow, deviceOp_of_no_row _ hrow, proceed_some _ _ (by simp), proceed_some _ _ (by simp)]
      exact ⟨r, rfl⟩

theorem engineEvent_ignoresResp (d : Device) (last : Nat) (e : Event) : IgnoresResp (engineEvent d last e) := by
  intro r s
  cases e with
  | op t o => exact engineOp_ignoresResp d last t o r s
  | look =>
    cases d with
    | main => exact ⟨.level (ipl s), rfl⟩
    | aux => exact ⟨r, rfl⟩
  | host w => exact ⟨r, rfl⟩

theorem runEvents_reply (d : Device) (l : List Event) : ∀ (last : Nat) (r : Resp) (s : State),
    ∃ q, runEvents d l last (reply r s) = ((runEvents d l last s).1, reply q (runEvents d l last s).2) := by
  induction l with
  | nil => exact fun last r s => ⟨r, rfl⟩
  | cons e l ih =>
    intro last r s
    obtain ⟨q, hq⟩ := engineEvent_ignoresResp d last e r s
    simp only [runEvents, hq, reply_fault]
    split
    · exact ih _ _ _
    · exact ⟨q, rfl⟩

theorem runFree_reply (d : Device) (call b n : Nat) : ∀ (k last : Nat) (r : Resp) (s : State),
    ∃ q, runFree d call b n k last (reply r s) =
      ((runFree d call b n k last s).1, reply q (runFree d call b n k last s).2) := by
  induction n with
  | zero => exact fun k last r s => ⟨r, rfl⟩
  | succ n ih =>
    intro k last r s
    simp only [runFree, reply_engResps]
    cases Config.engine call d b k s.engResps with
    | none => exact ⟨r, rfl⟩
    | some e =>
      obtain ⟨q, hq⟩ := engineEvent_ignoresResp d last e r s
      simp only [hq, reply_fault]
      split
      · exact ih _ _ _ _
      · exact ⟨q, rfl⟩

theorem callBody_reply (d : Device) (b : Nat) (r : Resp) (s : State) : ∃ q, callBody d b (reply r s) =
    ((callBody d b s).1, (callBody d b s).2.1, reply q (callBody d b s).2.2) := by
  have htake : takeCall d (reply r s) = reply r (takeCall d s) := rfl
  simp only [callBody, htake, reply_engines, reply_calls]
  split
  · next k _ _ =>
    obtain ⟨q, hq⟩ := runEvents_reply d k.events 0 r (takeCall d s)
    exact ⟨q, by rw [hq]⟩
  · obtain ⟨q, hq⟩ := runFree_reply d s.calls b (Config.engineLen s.calls d b) 0 0 r (takeCall d s)
    exact ⟨q, by rw [hq, reply_engResps]⟩

theorem checkReturn_ignoresResp (d : Device) (b c last : Nat) : IgnoresResp (checkReturn d b c last) := by
  intro r s
  unfold checkReturn
  split
  · exact ⟨r, rfl⟩
  · split <;> exact ⟨r, rfl⟩

theorem execCall_reply (d : Device) (b : Nat) (r : Resp) (s : State) :
    ∃ q, execCall d b (reply r s) = ((execCall d b s).1, reply q (execCall d b s).2) := by
  obtain ⟨p, hp⟩ := callBody_reply d b r s
  obtain ⟨q, hq⟩ := IgnoresResp.proceed (f := id) (fun r s => ⟨r, rfl⟩)
    (checkReturn_ignoresResp d b (callBody d b s).1 (callBody d b s).2.1) p (callBody d b s).2.2
  refine ⟨q, ?_⟩
  simp only [execCall, hp]
  exact congrArg (Prod.mk _) hq

theorem runTo_ignoresResp (d : Device) (T : Nat) : IgnoresResp (runTo d T) := by
  intro r s
  obtain hlt | hle := Nat.lt_or_ge (s.sched.odo.get d) T
  · obtain ⟨p, hp⟩ := execCall_reply d (T - s.sched.odo.get d) r (aim d T s)
    rw [runTo_runs hlt, runTo_runs (s := reply r s) hlt]
    have haim : aim d T (reply r s) = reply r (aim d T s) := rfl
    rw [haim, reply_sched, hp]
    exact IgnoresResp.proceed (f := id) (fun r s => ⟨r, rfl⟩) (fun r s => ⟨r, rfl⟩) p _
  · rw [runTo_reached hle, runTo_reached (s := reply r s) hle]
    exact ⟨r, rfl⟩

/-! A list of steps, each a row of the table, run one after another. -/

/-- Steps one after another; a recorded fault ends them (41_frame_scheduler.md R281). -/
def chain : List (State → State) → State → State
  | [], s => s
  | g :: r, s => proceed (g s) (chain r)

theorem proceed_assoc (s : State) (f g : State → State) :
    proceed (proceed s f) g = proceed s fun x => proceed (f x) g := by
  by_cases h : s.fault = none
  · rw [proceed_none _ _ h, proceed_none _ _ h]
  · rw [proceed_some _ _ h, proceed_some _ _ h, proceed_some _ _ h]

@[simp] theorem proceed_id (s : State) : (proceed s fun x => x) = s := by
  unfold proceed
  split <;> rfl

theorem chain_append (l r : List (State → State)) {s : State} (hs : s.fault = none) :
    chain (l ++ r) s = proceed (chain l s) (chain r) := by
  induction l generalizing s with
  | nil => rw [List.nil_append, chain, proceed_none _ _ hs]
  | cons g l ih =>
    rw [List.cons_append, chain, chain, proceed_assoc]
    by_cases h : (g s).fault = none
    · rw [proceed_none _ _ h, proceed_none _ _ h, ih h]
    · rw [proceed_some _ _ h, proceed_some _ _ h]

/-- A row, on the state its first part makes, answers the step and no response. -/
structure Performs (p : (State → State) × Instr) (g : State → State) : Prop where
  answers : ∀ s, s.ready → exec p.2 (p.1 s) = .next (reply .none (g s))
  ignoresResp : IgnoresResp g
  cfg : ∀ s, (g s).cfg = s.cfg

/-- Each row of a list performs the step at its place in the other. -/
inductive PerformsAll : List ((State → State) × Instr) → List (State → State) → Prop
  | nil : PerformsAll [] []
  | cons {p g l gs} (h : Performs p g) (r : PerformsAll l gs) : PerformsAll (p :: l) (g :: gs)

theorem PerformsAll.append {l l' : List ((State → State) × Instr)} {gs gs' : List (State → State)}
    (h : PerformsAll l gs) (k : PerformsAll l' gs') : PerformsAll (l ++ l') (gs ++ gs') := by
  induction h with
  | nil => exact k
  | cons hp _ ih => exact .cons hp ih

section
variable {p : (State → State) × Instr} {g : State → State} {l : List ((State → State) × Instr)}
  {gs : List (State → State)} {s : State}

theorem runChain_cons (hp : Performs p g) (hs : s.ready) (r : Resp) : runChain (p :: l) (reply r s) =
    if (g s).fault = none then runChain l (reply .none (g s)) else some (reply .none (g s)) := by
  obtain ⟨q, hq⟩ := hp.ignoresResp r s
  rw [runChain, hp.answers (reply r s) hs, hq]
  rfl

theorem runChain_reply_none (h : PerformsAll l gs) (hs : s.ready) :
    runChain l (reply .none s) = some (reply .none (chain gs s)) := by
  induction h generalizing s with
  | nil => rfl
  | @cons p g l gs hp _ ih =>
    rw [runChain_cons hp hs, chain]
    by_cases hf : (g s).fault = none
    · rw [if_pos hf, proceed_none _ _ hf, ih ⟨(hp.cfg s).symm ▸ hs.1, hf⟩]
    · rw [if_neg hf, proceed_some _ _ hf]

/-- Rows that each perform a step perform the steps, one after another. -/
theorem runChain_eq (hp : Performs p g) (h : PerformsAll l gs) (hs : s.ready) :
    runChain (p :: l) s = some (reply .none (chain (g :: gs) s)) :=
  (runChain_cons hp hs s.resp).trans ((runChain_cons hp hs .none).symm.trans (runChain_reply_none (.cons hp h) hs))

/-- Where a list of rows ends without a fault, a longer list goes on. -/
theorem runChain_append {l' : List ((State → State) × Instr)} {u : State} (h : runChain l s = some u)
    (hu : u.fault = none) : runChain (l ++ l') s = runChain l' u := by
  induction l generalizing s with
  | nil =>
    cases h
    rfl
  | cons p l ih =>
    obtain ⟨f, i⟩ := p
    rw [List.cons_append, runChain]
    rw [runChain] at h
    cases hx : exec i (f s) with
    | next t =>
      simp only [hx] at h ⊢
      split at h
      · next ht => rw [if_pos ht, ih h]
      · next ht =>
        cases h
        exact absurd hu ht
    | fault | refused => simp [hx] at h

end

end Sys2Proof.Machine

/-! ### The two blanking bits (10_state.md R54): no bus operation and no engine touches them. -/

namespace Sys2Proof.Machine

/-- The v-blank and the h-blank status bit. -/
def Vdp.blanks (v : Vdp) : Bool × Bool := (v.stVblank, v.stHblank)

section
variable (c : Cfg) (v : Vdp)

@[simp] theorem vramPut_blanks (A : Nat) (x : Byte) : (vramPut c A x v).blanks = v.blanks := by
  unfold vramPut
  split <;> rfl

@[simp] theorem cramPut_blanks (e : Nat) (d : Half) : (cramPut c e d v).blanks = v.blanks := by
  unfold cramPut
  split <;> rfl

@[simp] theorem autoInc_blanks : (autoInc v).blanks = v.blanks := rfl

@[simp] theorem dataPut_blanks (d : Half) : (dataPut c d v).blanks = v.blanks := by
  unfold dataPut
  cases modeOf v.code with
  | vramWr => simp
  | cramWr => simp
  | vsramWr => dsimp only; split <;> rfl
  | vramRd | vsramRd | cramRd | invalid => rfl

@[simp] theorem dataUnit_blanks (d : Half) : (dataUnit c d v).blanks = v.blanks := dataPut_blanks c v d

theorem fillLoop_blanks (b : Byte) (n : Nat) (v : Vdp) : (fillLoop c b n v).blanks = v.blanks := by
  induction n generalizing v with
  | zero => rfl
  | succ n ih => simp [fillLoop, ih]

theorem copyLoop_blanks (n : Nat) (src : Half) (v : Vdp) : (copyLoop c n src v).2.blanks = v.blanks := by
  induction n generalizing src v with
  | zero => rfl
  | succ n ih => simp [copyLoop, ih]

@[simp] theorem dmaFill_blanks (b : Byte) : (dmaFill c b v).blanks = v.blanks := fillLoop_blanks c b (dmaLen v) v

@[simp] theorem dmaCopy_blanks : (dmaCopy c v).blanks = v.blanks := copyLoop_blanks c (dmaLen v) (dmaSrc v) v

@[simp] theorem vdpDataWrite16_blanks (d : Half) : (vdpDataWrite16 c d v).blanks = v.blanks := by
  have unit : (dataUnit c d { v with pend := false }).blanks = v.blanks := dataUnit_blanks c { v with pend := false } d
  unfold vdpDataWrite16
  dsimp only
  split
  · split
    · exact (dmaFill_blanks ..).trans unit
    · exact unit
  · exact unit

theorem refreshCaches_blanks : (refreshCaches c v).blanks = v.blanks := by
  unfold refreshCaches
  dsimp only
  split <;> split <;> rfl

theorem drawLine_blanks (x : Std) (n : Int) (fb : Mem) : (drawLine c x n v fb).1.blanks = v.blanks := by
  unfold drawLine
  split
  · rfl
  · split
    · exact refreshCaches_blanks c v
    · rfl

end

/-! The bus operations. -/

section
variable (s : State)

@[simp] theorem busRd8_blanks (a : Addr) : (busRd8 a s).2.vdp.blanks = s.vdp.blanks := by
  unfold busRd8
  cases region s.cfg s.bus a with
  | vdp o =>
    dsimp only [vdpBlockRead8]
    cases vdpPort o <;> rfl
  | io o =>
    dsimp only [ioBlockRead8]
    split <;> rfl
  | rom | sram | ram | zram | fm | banksel | sramctl | unmapped => rfl

@[simp] theorem busRd16_blanks (a : Addr) : (busRd16 a s).2.vdp.blanks = s.vdp.blanks := by
  have split : (splitRd16 a s).2.vdp.blanks = s.vdp.blanks := by simp [splitRd16]
  unfold busRd16
  cases region s.cfg s.bus a with
  | vdp o =>
    dsimp only
    cases vdpPort o with
    | data | ctrl => rfl
    | psg | none => exact split
  | rom | sram | ram | zram | fm | banksel | io | sramctl | unmapped => exact split

theorem dmaBusLoop_blanks (hi : BitVec 7) (n : Nat) (lo : Half) (s : State) :
    (dmaBusLoop hi n lo s).2.vdp.blanks = s.vdp.blanks := by
  induction n generalizing lo s with
  | zero => rfl
  | succ n ih => simp [dmaBusLoop, ih]

@[simp] theorem dmaStart_blanks : (dmaStart s).vdp.blanks = s.vdp.blanks := by
  unfold dmaStart
  cases dmaModeOf (vreg s.vdp 23) with
  | bus => exact dmaBusLoop_blanks _ _ _ s
  | fill => rfl
  | copy => exact dmaCopy_blanks s.cfg s.vdp

@[simp] theorem vdpCommand_blanks (w : CmdWord) : (vdpCommand w s).vdp.blanks = s.vdp.blanks := by
  unfold vdpCommand
  dsimp only
  split
  · exact dmaStart_blanks _
  · rfl

@[simp] theorem ctrlPortWrite16_blanks (w : Half) : (ctrlPortWrite16 w s).vdp.blanks = s.vdp.blanks := by
  unfold ctrlPortWrite16
  split
  · exact vdpCommand_blanks _ _
  · split <;> rfl

@[simp] theorem dataPortWrite16_blanks (d : Half) : (dataPortWrite16 d s).vdp.blanks = s.vdp.blanks :=
  vdpDataWrite16_blanks s.cfg s.vdp d

variable (now : Nat)

@[simp] theorem busWr8_blanks (a : Addr) (v : Byte) : (busWr8 now a v s).vdp.blanks = s.vdp.blanks := by
  unfold busWr8
  cases region s.cfg s.bus a with
  | vdp o =>
    dsimp only [vdpBlockWrite8]
    cases vdpPort o with
    | data => exact dataPortWrite16_blanks s _
    | ctrl => exact ctrlPortWrite16_blanks s _
    | psg | none => rfl
  | io o =>
    dsimp only [ioBlockWrite8]
    split <;> rfl
  | rom | sram | ram | zram | fm | banksel | sramctl | unmapped => rfl

@[simp] theorem busWr16_blanks (a : Addr) (v : Half) : (busWr16 now a v s).vdp.blanks = s.vdp.blanks := by
  have split : (splitWr16 now a v s).vdp.blanks = s.vdp.blanks := by simp [splitWr16]
  unfold busWr16
  cases region s.cfg s.bus a with
  | vdp o =>
    dsimp only
    cases vdpPort o with
    | data => exact dataPortWrite16_blanks s v
    | ctrl => exact ctrlPortWrite16_blanks s v
    | psg | none => exact split
  | rom | sram | ram | zram | fm | banksel | io | sramctl | unmapped => exact split

@[simp] theorem auxRd8_blanks (a : AuxAddr) : (auxRd8 a s).2.vdp.blanks = s.vdp.blanks := by
  unfold auxRd8
  cases auxTarget s.cfg s.bus.bank a with
  | main m => exact busRd8_blanks s m
  | zram | fm | banksel | none => rfl

@[simp] theorem auxWr8_blanks (a : AuxAddr) (v : Byte) : (auxWr8 now a v s).vdp.blanks = s.vdp.blanks := by
  unfold auxWr8
  cases auxTarget s.cfg s.bus.bank a with
  | main m => exact busWr8_blanks s now m v
  | zram | fm | banksel | none => rfl

@[simp] theorem intAck_blanks (n : Nat) : (intAck n s).2.vdp.blanks = s.vdp.blanks := by
  obtain ⟨h, v, f, e⟩ := intAck_only n s
  rw [e]
  rfl

/-! The engines. -/

theorem deviceOp_blanks (d : Device) (t : Nat) (o : EngOp) : (deviceOp d t o s).vdp.blanks = s.vdp.blanks := by
  cases d <;> cases o <;> simp [deviceOp, mainOp, auxOp, replyByte, replyWord, replyAck]

theorem engineEvent_blanks (d : Device) (last : Nat) (e : Event) :
    (engineEvent d last e s).vdp.blanks = s.vdp.blanks := by
  cases e with
  | op t o =>
    rw [engineEvent, engineOp_eq]
    split
    · rfl
    · exact proceed_keeps (P := fun u => u.vdp.blanks = s.vdp.blanks) (deviceOp_blanks s d t o) id
  | look => cases d <;> rfl
  | host w => rfl

end

/-- What every event keeps, a call keeps. -/
theorem callBody_keeps {P : State → Prop} {d : Device} (hP : ∀ last e u, P u → P (engineEvent d last e u))
    {b : Nat} {s : State} (h : P (takeCall d s)) : P (callBody d b s).2.2 := by
  have recorded (l : List Event) : ∀ last u, P u → P (runEvents d l last u).2 := by
    induction l with
    | nil => exact fun _ _ hu => hu
    | cons e l ih =>
      intro last u hu
      simp only [runEvents]
      split
      · exact ih _ _ (hP last e u hu)
      · exact hP last e u hu
  have free (call n : Nat) : ∀ k last u, P u → P (runFree d call b n k last u).2 := by
    induction n with
    | zero => exact fun _ _ _ hu => hu
    | succ n ih =>
      intro k last u hu
      simp only [runFree]
      split
      · exact hu
      · next e _ =>
        split
        · exact ih _ _ _ (hP last e u hu)
        · exact hP last e u hu
  unfold callBody
  split
  · exact recorded _ _ _ h
  · exact free _ _ _ _ _ h

theorem execCall_blanks (d : Device) (b : Nat) (s : State) : (execCall d b s).2.vdp.blanks = s.vdp.blanks := by
  have body : (callBody d b s).2.2.vdp.blanks = s.vdp.blanks :=
    callBody_keeps (P := fun u => u.vdp.blanks = s.vdp.blanks)
      (fun last e u h => (engineEvent_blanks u d last e).trans h) rfl
  refine proceed_keeps (P := fun u => u.vdp.blanks = s.vdp.blanks) body fun h => ?_
  unfold checkReturn
  split
  · exact h
  · split <;> exact h

theorem runTo_blanks (d : Device) (T : Nat) (s : State) : (runTo d T s).vdp.blanks = s.vdp.blanks :=
  runTo_keeps (P := fun u => u.vdp.blanks = s.vdp.blanks) rfl (fun b u h => (execCall_blanks d b u).trans h)
    fun _ _ h => h

end Sys2Proof.Machine

/-! ### The two sub-slices of a line (41_frame_scheduler.md R274, R282, R286). -/

namespace Sys2Proof.Machine

/-- What the arbiter leaves alone inside a line: the position, the standard, the sampled pad word, the flag of a
complete frame, the v-blank bit. -/
structure KeepsLine (s t : State) : Prop where
  cfg : t.cfg = s.cfg
  line : t.sched.line = s.sched.line
  std : t.sched.std = s.sched.std
  padLatch : t.sched.padLatch = s.sched.padLatch
  frameComplete : t.sched.frameComplete = s.sched.frameComplete
  synths : t.synths = s.synths
  vblank : t.vdp.stVblank = s.vdp.stVblank

theorem KeepsLine.trans {s t u : State} (h : KeepsLine s t) (k : KeepsLine t u) : KeepsLine s u :=
  ⟨k.cfg.trans h.cfg, k.line.trans h.line, k.std.trans h.std, k.padLatch.trans h.padLatch,
    k.frameComplete.trans h.frameComplete, k.synths.trans h.synths, k.vblank.trans h.vblank⟩

theorem OnlyCall.keepsLine {s t : State} (h : OnlyCall s t) (hv : t.vdp.blanks = s.vdp.blanks) : KeepsLine s t :=
  ⟨h.cfg, by rw [h.sched], by rw [h.sched], by rw [h.sched], by rw [h.sched], h.synths, congrArg Prod.fst hv⟩

theorem execCall_keepsLine (d : Device) (b : Nat) (s : State) : KeepsLine s (execCall d b s).2 :=
  KeepsLine.trans (t := takeCall d s) ⟨rfl, rfl, rfl, rfl, rfl, rfl, rfl⟩
    ((execCall_call d b s).keepsLine (execCall_blanks d b s))

/-- An engine's recorded calls all do nothing, and there are at least `n` (the part of `State.idle` for one device). -/
def State.idleFor (d : Device) (n : Nat) (s : State) : Prop :=
  n ≤ (s.engines.get d).length ∧ ∀ k ∈ s.engines.get d, k = ⟨[], 0⟩

theorem State.idleFor.mono {d : Device} {m n : Nat} {s : State} (h : s.idleFor d n) (hm : m ≤ n) : s.idleFor d m :=
  ⟨Nat.le_trans hm h.1, h.2⟩

section
variable (d : Device) (T : Nat) (s : State)

theorem runTo_keepsLine : KeepsLine s (runTo d T s) :=
  runTo_keeps (P := KeepsLine s) ⟨rfl, rfl, rfl, rfl, rfl, rfl, rfl⟩
    (fun b u h => h.trans (execCall_keepsLine d b u))
    fun _ _ h => h.trans ⟨rfl, rfl, rfl, rfl, rfl, rfl, rfl⟩

theorem runTo_calls_le : (runTo d T s).calls ≤ s.calls + 1 := by
  obtain hlt | hle := Nat.lt_or_ge (s.sched.odo.get d) T
  · exact Nat.le_of_eq (runTo_record_of_lt hlt).1
  · rw [runTo_reached hle]
    exact Nat.le_succ _

variable {d T s}

/-- An idle engine is run without a fault, and at most one of its calls is taken. -/
theorem runTo_idleFor {n : Nat} (hs : s.fault = none) (h : s.idleFor d (n + 1)) :
    (runTo d T s).fault = none ∧ (runTo d T s).idleFor d n := by
  obtain hlt | hle := Nat.lt_or_ge (s.sched.odo.get d) T
  · obtain ⟨hlen, hsilent⟩ := h
    obtain ⟨k, rest, hrec⟩ := List.exists_cons_of_length_pos (Nat.lt_of_lt_of_le (Nat.succ_pos n) hlen)
    rw [hrec] at hlen hsilent
    obtain rfl := hsilent k List.mem_cons_self
    have hengines := (runTo_record_of_lt hlt).2
    rw [hrec, List.tail_cons] at hengines
    refine ⟨?_, ?_⟩
    · rw [runTo_of_silent hs hrec hlt (Nat.zero_le _)]
      exact hs
    · rw [State.idleFor, hengines, PerDev.get_set]
      exact ⟨Nat.le_of_succ_le_succ hlen, fun x hx => hsilent x (List.mem_cons_of_mem _ hx)⟩
  · rw [runTo_reached hle]
    exact ⟨hs, h.mono (Nat.le_succ n)⟩

/-- The other engine's record stays. -/
theorem runTo_idleFor_other {e : Device} (he : e ≠ d) {n : Nat} (h : s.idleFor e n) : (runTo d T s).idleFor e n := by
  obtain hlt | hle := Nat.lt_or_ge (s.sched.odo.get d) T
  · rwa [State.idleFor, (runTo_record_of_lt hlt).2, PerDev.get_set_ne _ _ he]
  · rwa [runTo_reached hle]

end

/-- What went on after `s` and recorded no fault went on from a state without one. -/
theorem fault_of_proceed {s : State} {f : State → State} (h : (proceed s f).fault = none) : s.fault = none := by
  refine Classical.byContradiction fun hs => ?_
  rw [proceed_some _ _ hs] at h
  exact hs h

/-! Both devices to a boundary each, MAIN first (R282). -/

/-- Both devices to the boundaries `T`. -/
def runBothTo (T : Device → Nat) (s : State) : State := proceed (runTo .main (T .main) s) (runTo .aux (T .aux))

section
variable (T : Device → Nat) (s : State)

theorem runBothTo_keepsLine : KeepsLine s (runBothTo T s) :=
  proceed_keeps (P := KeepsLine s) (runTo_keepsLine ..) fun h => h.trans (runTo_keepsLine ..)

theorem runBothTo_blanks : (runBothTo T s).vdp.blanks = s.vdp.blanks :=
  proceed_keeps (P := fun u => u.vdp.blanks = s.vdp.blanks) (runTo_blanks ..) fun h => (runTo_blanks ..).trans h

theorem runBothTo_calls_le : (runBothTo T s).calls ≤ s.calls + 2 :=
  proceed_keeps (P := fun u => u.calls ≤ s.calls + 2) (Nat.le_succ_of_le (runTo_calls_le ..)) fun _ =>
    Nat.le_trans (runTo_calls_le ..) (Nat.succ_le_succ (runTo_calls_le ..))

variable {T s}

/-- Both devices have their boundary as target, and their odometers have risen to it at most. -/
theorem runBothTo_reaches (h : (runBothTo T s).fault = none) (d : Device) :
    (runBothTo T s).sched.tgt.get d = T d ∧ s.sched.odo.get d ≤ (runBothTo T s).sched.odo.get d ∧
      (runBothTo T s).sched.odo.get d ≤ max (T d) (s.sched.odo.get d) := by
  have hmain : (runTo .main (T .main) s).fault = none := fault_of_proceed h
  have heq : runBothTo T s = runTo .aux (T .aux) (runTo .main (T .main) s) := proceed_none _ _ hmain
  rw [heq] at h ⊢
  obtain ⟨main_up, main_max, main_other⟩ := runTo_odo hmain
  obtain ⟨aux_up, aux_max, aux_other⟩ := runTo_odo h
  rw [runTo_tgt, runTo_tgt]
  cases d with
  | main =>
    rw [aux_other .main (by decide)]
    exact ⟨rfl, main_up, main_max⟩
  | aux =>
    rw [main_other .aux (by decide)] at aux_up aux_max
    exact ⟨rfl, aux_up, aux_max⟩

theorem runBothTo_idle {n : Nat} (hs : s.fault = none) (h : s.idle (n + 1)) :
    (runBothTo T s).fault = none ∧ (runBothTo T s).idle n := by
  obtain ⟨hmain, main_idle⟩ := runTo_idleFor (T := T .main) hs (h .main)
  have aux_idle : (runTo .main (T .main) s).idleFor .aux (n + 1) := runTo_idleFor_other (by decide) (h .aux)
  obtain ⟨haux, aux_idle⟩ := runTo_idleFor (T := T .aux) hmain aux_idle
  rw [runBothTo, proceed_none _ _ hmain]
  refine ⟨haux, fun d => ?_⟩
  cases d with
  | main => exact runTo_idleFor_other (by decide) main_idle
  | aux => exact aux_idle

end

/-! The boundaries of the two sub-slices do not change inside a line. -/

section
variable {s t : State} (h : KeepsLine s t)
include h

theorem KeepsLine.hblankEnd : hblankEnd t = hblankEnd s := by
  funext d
  rw [Machine.hblankEnd, h.cfg, h.line, h.std]
  rfl

theorem KeepsLine.lineEnd : lineEnd t = lineEnd s := by
  funext d
  rw [Machine.lineEnd, h.cfg, h.line, h.std]
  rfl

end

theorem runBoth_eq {stop : State → Device → Nat} {s : State}
    (h : stop (runTo .main (stop s .main) s) = stop s) : runBoth stop s = runBothTo (stop s) s := by
  by_cases hf : (runTo .main (stop s .main) s).fault = none
  · rw [runBoth, runBothTo, proceed_none _ _ hf, proceed_none _ _ hf, h]
  · rw [runBoth, runBothTo, proceed_some _ _ hf, proceed_some _ _ hf]

theorem enterSlice_keepsLine (k : Slice) (hb : Bool) (s : State) : KeepsLine s (enterSlice k hb s) :=
  ⟨rfl, rfl, rfl, rfl, rfl, rfl, rfl⟩

/-- The end of the display sub-slice: no slice is running. -/
def leaveSlices (s : State) : State := setSched s { s.sched with slice := .none }

/-- The h-blank sub-slice of the line `s` is on. -/
def hblankSlice (s : State) : State := runBothTo (hblankEnd s) (enterSlice .hblank true s)

/-- The display sub-slice, to the end of a line at `T`. -/
def displaySlice (T : Device → Nat) (s : State) : State := runBothTo T (enterSlice .display false s)

theorem hblankSlice_keepsLine (s : State) : KeepsLine s (hblankSlice s) :=
  (enterSlice_keepsLine ..).trans (runBothTo_keepsLine ..)

theorem slices_eq (s : State) :
    slices s = proceed (proceed (hblankSlice s) (displaySlice (lineEnd s))) leaveSlices := by
  have first : runBoth hblankEnd (enterSlice .hblank true s) = hblankSlice s :=
    runBoth_eq (runTo_keepsLine ..).hblankEnd
  have second {u : State} (h : KeepsLine s u) :
      runBoth lineEnd (enterSlice .display false u) = displaySlice (lineEnd s) u := by
    rw [runBoth_eq (runTo_keepsLine ..).lineEnd, (h.trans (enterSlice_keepsLine ..)).lineEnd]
    rfl
  rw [proceed_assoc, slices, first]
  by_cases h : (hblankSlice s).fault = none
  · rw [proceed_none _ _ h, proceed_none _ _ h, second (hblankSlice_keepsLine s)]
    rfl
  · rw [proceed_some _ _ h, proceed_some _ _ h]

/-- Without a fault the slices are the two sub-slices, one after the other. -/
theorem slices_of_no_fault {s : State} (h : (slices s).fault = none) : (hblankSlice s).fault = none ∧
    (displaySlice (lineEnd s) (hblankSlice s)).fault = none ∧
    slices s = leaveSlices (displaySlice (lineEnd s) (hblankSlice s)) := by
  have hslices := slices_eq s
  have both := fault_of_proceed (hslices ▸ h)
  have first := fault_of_proceed both
  rw [proceed_none _ _ both, proceed_none _ _ first] at hslices
  rw [proceed_none _ _ first] at both
  exact ⟨first, both, hslices⟩

theorem slices_keepsLine (s : State) : KeepsLine s (slices s) :=
  slices_eq s ▸ proceed_keeps (P := KeepsLine s)
    (proceed_keeps (P := KeepsLine s) (hblankSlice_keepsLine s) fun h =>
      h.trans ((enterSlice_keepsLine ..).trans (runBothTo_keepsLine ..)))
    fun h => h.trans ⟨rfl, rfl, rfl, rfl, rfl, rfl, rfl⟩

theorem slices_calls_le (s : State) : (slices s).calls ≤ s.calls + 4 :=
  slices_eq s ▸ proceed_keeps (P := fun u => u.calls ≤ s.calls + 4)
    (proceed_keeps (P := fun u => u.calls ≤ s.calls + 4)
      (Nat.le_trans (runBothTo_calls_le ..) (Nat.add_le_add_left (by decide) _)) fun _ =>
      Nat.le_trans (runBothTo_calls_le ..) (Nat.add_le_add_right (runBothTo_calls_le ..) 2))
    id

theorem slices_idle {n : Nat} {s : State} (hs : s.fault = none) (h : s.idle (n + 2)) :
    (slices s).fault = none ∧ (slices s).idle n := by
  obtain ⟨first, hidle⟩ := runBothTo_idle (T := hblankEnd s) (s := enterSlice .hblank true s) hs h
  obtain ⟨second, hidle⟩ :=
    runBothTo_idle (T := lineEnd s) (s := enterSlice .display false (hblankSlice s)) first hidle
  rw [slices_eq, proceed_none _ _ (show (hblankSlice s).fault = none from first)]
  rw [proceed_none _ _ (show (displaySlice (lineEnd s) (hblankSlice s)).fault = none from second)]
  exact ⟨second, hidle⟩

/-! The bounds of a well-formed configuration that the scheduler counts on (00_scope.md R18). -/

theorem Cfg.stdWf_of_wf {c : Cfg} (h : c.wf = true) (x : Std) : c.stdWf x = true := by
  simp only [Cfg.wf, Bool.and_eq_true] at h
  obtain ⟨⟨⟨ntsc, pal⟩, -⟩, -⟩ := h
  cases x
  · exact ntsc
  · exact pal

/-- The h-blank sub-slice is no longer than a line. -/
theorem Cfg.hbl_le_cpl {c : Cfg} (h : c.wf = true) (d : Device) (x : Std) :
    (c.hbl.get d).get x ≤ (c.cpl.get d).get x := by
  have hstd := stdWf_of_wf h x
  simp only [Cfg.stdWf, Bool.and_eq_true, decide_eq_true_eq] at hstd
  obtain ⟨⟨⟨⟨-, hmain, haux⟩, -⟩, -⟩, -⟩ := hstd
  cases d
  · exact hmain
  · exact haux

/-- The v-blank begins inside the frame. -/
theorem Cfg.vblankStart_bounds {c : Cfg} (h : c.wf = true) (x : Std) :
    0 < c.vblankStart.get x ∧ c.vblankStart.get x ≤ c.linesTotal.get x := by
  have hstd := stdWf_of_wf h x
  simp only [Cfg.stdWf, Bool.and_eq_true, decide_eq_true_eq] at hstd
  obtain ⟨⟨⟨⟨⟨⟨⟨hactive, hvblank⟩, hbottom⟩, -⟩, -⟩, -⟩, -⟩, -⟩ := hstd
  omega

/-- After the slices no slice is running and both devices stand at the line's end at most. -/
theorem slices_reach {s : State} (hs : s.cfg.wf = true) (h : (slices s).fault = none) :
    (slices s).sched.slice = .none ∧ (slices s).vdp.stHblank = false ∧
      ∀ d, (slices s).sched.tgt.get d = lineEnd s d ∧ s.sched.odo.get d ≤ (slices s).sched.odo.get d ∧
        (s.sched.odo.get d ≤ s.sched.line * (s.cfg.cpl.get d).get s.sched.std →
          (slices s).sched.odo.get d ≤ lineEnd s d) := by
  obtain ⟨first, second, heq⟩ := slices_of_no_fault h
  rw [heq]
  refine ⟨rfl, congrArg Prod.snd (runBothTo_blanks ..), fun d => ?_⟩
  obtain ⟨-, up1, max1⟩ := runBothTo_reaches first d
  obtain ⟨tgt, up2, max2⟩ := runBothTo_reaches second d
  refine ⟨tgt, Nat.le_trans up1 up2, fun hodo => Nat.le_trans max2 (Nat.max_le.mpr ⟨Nat.le_refl _, ?_⟩)⟩
  have hbl := Cfg.hbl_le_cpl hs d s.sched.std
  have hend : lineEnd s d = s.sched.line * (s.cfg.cpl.get d).get s.sched.std + (s.cfg.cpl.get d).get s.sched.std :=
    Nat.succ_mul ..
  refine Nat.le_trans max1 (Nat.max_le.mpr ⟨?_, ?_⟩)
  · exact hend ▸ Nat.add_le_add_left hbl _
  · exact hend ▸ Nat.le_trans hodo (Nat.le_add_right ..)

/-- The steps of the slices as the arbiter makes them. -/
def sliceSteps (s : State) : List (State → State) :=
  [fun t => runTo .main (hblankEnd s .main) (enterSlice .hblank true t), runTo .aux (hblankEnd s .aux),
    fun t => runTo .main (lineEnd s .main) (enterSlice .display false t), runTo .aux (lineEnd s .aux)]

theorem chain_sliceSteps (s : State) :
    chain (sliceSteps s) s = proceed (hblankSlice s) (displaySlice (lineEnd s)) := by
  simp only [sliceSteps, chain, proceed_id, hblankSlice, runBothTo, proceed_assoc]
  rfl

theorem performs_runto (d : Device) (T : Nat) : Performs (id, .runto d T) (runTo d T) :=
  ⟨fun _ h => exec_runto h d T, runTo_ignoresResp d T, runTo_cfg d T⟩

theorem performs_enterSlice (k : Slice) (hb : Bool) (d : Device) (T : Nat) :
    Performs (enterSlice k hb, .runto d T) fun t => runTo d T (enterSlice k hb t) :=
  ⟨fun s h => exec_runto (s := enterSlice k hb s) h d T,
    (runTo_ignoresResp d T).comp fun r _ => ⟨r, rfl⟩, fun _ => (runTo_cfg d T _).trans rfl⟩

/-- Settles O47: the four RUNTOs are the steps of `slices`, and `slices_reach` says where they end. -/
theorem slicesReachTheLineEnd : Obligations.SlicesReachTheLineEnd := by
  intro s hready cpl hblank enter
  have steps := runChain_eq (performs_enterSlice .hblank true .main (hblank .main))
    (.cons (performs_runto .aux (hblank .aux)) (.cons (performs_enterSlice .display false .main (lineEnd s .main))
      (.cons (performs_runto .aux (lineEnd s .aux)) .nil))) hready
  have hslices : slices s = proceed (chain (sliceSteps s) s) leaveSlices := chain_sliceSteps s ▸ slices_eq s
  refine ⟨_, _, exec_slices hready, steps, fun hf => ?_, fun hf => ?_, fun hidle => (slices_idle hready.2 hidle).1,
    slices_calls_le s, fun hf => ?_⟩
  · exact congrArg (reply .none) (hslices.trans (proceed_some _ _ hf))
  · exact congrArg (reply .none) (hslices.trans (proceed_none _ _ hf))
  · obtain ⟨hslice, hblank, hreach⟩ := slices_reach hready.1 hf
    refine ⟨(slices_keepsLine s).line, hslice, hblank, fun d => ?_⟩
    obtain ⟨htgt, hup, hodo⟩ := hreach d
    exact ⟨htgt, hup, fun h => Nat.le_trans (hodo h) (Nat.le_of_eq htgt.symm)⟩

end Sys2Proof.Machine

/-! ### A line (41_frame_scheduler.md R288): its steps in order, and what they leave. -/

namespace Sys2Proof.Machine

/-! The horizontal step and the steps before the slices. -/

theorem hStep_only (s : State) : hStep s =
    { s with
      sched := { s.sched with
        hcnt := (hStep s).sched.hcnt
        irqH := (hStep s).sched.irqH
        fb := (hStep s).sched.fb }
      vdp := (hStep s).vdp } := by
  unfold hStep
  split
  · unfold hCount
    split <;> rfl
  · rfl

theorem hStep_blanks (s : State) : (hStep s).vdp.blanks = s.vdp.blanks := by
  have count : (hCount s).vdp = s.vdp := by
    unfold hCount
    split <;> rfl
  unfold hStep
  split
  · exact (drawLine_blanks ..).trans (congrArg Vdp.blanks count)
  · rfl

theorem hStep_ignoresResp : IgnoresResp hStep := by
  intro r s
  have count : hCount (reply r s) = reply r (hCount s) := by
    unfold hCount
    rw [reply_sched]
    split <;> rfl
  refine ⟨r, ?_⟩
  unfold hStep
  rw [count, reply_cfg, reply_sched]
  split <;> rfl

/-- The steps of a line before the slices. -/
def beforeSlices (s : State) : State := hStep (timerStep (padSample (padTimeoutStep s)))

theorem lineStep_eq_proceed (s : State) : lineStep s = proceed (slices (beforeSlices s)) lineTail := rfl

theorem beforeSlices_only (s : State) : beforeSlices s =
    { s with
      sched := { s.sched with
        hcnt := (beforeSlices s).sched.hcnt
        irqH := (beforeSlices s).sched.irqH
        fb := (beforeSlices s).sched.fb
        padLatch := (sampleCell Config.padDraw s.host.pad).1 }
      bus := (beforeSlices s).bus
      vdp := (beforeSlices s).vdp
      snd := (beforeSlices s).snd
      host := (beforeSlices s).host } := by
  unfold beforeSlices
  rw [hStep_only]
  rfl

section
variable (s : State)

@[simp] theorem beforeSlices_cfg : (beforeSlices s).cfg = s.cfg := by rw [beforeSlices_only]
@[simp] theorem beforeSlices_line : (beforeSlices s).sched.line = s.sched.line := by rw [beforeSlices_only]
@[simp] theorem beforeSlices_std : (beforeSlices s).sched.std = s.sched.std := by rw [beforeSlices_only]
@[simp] theorem beforeSlices_odo : (beforeSlices s).sched.odo = s.sched.odo := by rw [beforeSlices_only]
@[simp] theorem beforeSlices_padLatch :
    (beforeSlices s).sched.padLatch = (sampleCell Config.padDraw s.host.pad).1 := by rw [beforeSlices_only]
@[simp] theorem beforeSlices_frameComplete : (beforeSlices s).sched.frameComplete = s.sched.frameComplete := by
  rw [beforeSlices_only]
@[simp] theorem beforeSlices_vblank : (beforeSlices s).vdp.stVblank = s.vdp.stVblank :=
  congrArg Prod.fst (hStep_blanks _)
@[simp] theorem beforeSlices_fault : (beforeSlices s).fault = s.fault := by rw [beforeSlices_only]
@[simp] theorem beforeSlices_engines : (beforeSlices s).engines = s.engines := by rw [beforeSlices_only]
@[simp] theorem beforeSlices_calls : (beforeSlices s).calls = s.calls := by rw [beforeSlices_only]
@[simp] theorem beforeSlices_synths : (beforeSlices s).synths = s.synths := by rw [beforeSlices_only]

end

/-! The end of a line: the v-blank boundary, the snapshot, the line count (R276, R278, R288). -/

/-- The line is the last Active one. -/
abbrev State.atBoundary (s : State) : Prop := s.sched.line + 1 = s.cfg.vblankStart.get s.sched.std

/-- The line is the snapshot's. -/
abbrev State.atSnapshot (s : State) : Prop := s.sched.line = s.cfg.snapshotLine

/-- The line count. -/
def nextLine (s : State) : State := setSched s { s.sched with line := s.sched.line + 1 }

theorem lineTail_eq (s : State) : lineTail s =
    nextLine ((if s.atSnapshot then snapshotStep else id) ((if s.atBoundary then vblankBoundary else id) s)) := by
  have snapshot (u : State) (h : u.atSnapshot ↔ s.atSnapshot) :
      (if u.atSnapshot then snapshotStep u else u) = (if s.atSnapshot then snapshotStep else id) u := by
    simp only [h]
    split <;> rfl
  by_cases hb : s.atBoundary
  · rw [lineTail, if_pos hb, if_pos hb]
    exact congrArg nextLine (snapshot _ Iff.rfl)
  · rw [lineTail, if_neg hb, if_neg hb]
    exact congrArg nextLine (snapshot _ Iff.rfl)

theorem lineTail_only (s : State) : lineTail s =
    { s with
      sched := { s.sched with
        line := s.sched.line + 1
        irqV := s.sched.irqV || s.atBoundary
        frameComplete := s.sched.frameComplete || s.atBoundary
        palsnap := (lineTail s).sched.palsnap }
      vdp := { s.vdp with stF := s.vdp.stF || s.atBoundary, stVblank := s.vdp.stVblank || s.atBoundary } } := by
  rw [lineTail_eq]
  by_cases hb : s.atBoundary
  · simp only [if_pos hb, decide_eq_true hb, Bool.or_true]
    split <;> rfl
  · simp only [if_neg hb, decide_eq_false hb, Bool.or_false]
    split <;> rfl

theorem lineTail_ignoresResp : IgnoresResp lineTail := by
  intro r s
  refine ⟨r, ?_⟩
  rw [lineTail_eq, lineTail_eq]
  show nextLine ((if s.atSnapshot then snapshotStep else id)
    ((if s.atBoundary then vblankBoundary else id) (reply r s))) = _
  split <;> split <;> rfl

/-- The steps of the end of a line. -/
def tailSteps (s : State) : List (State → State) :=
  (if s.atBoundary then [vblankBoundary] else []) ++ (if s.atSnapshot then [snapshotStep] else [])

theorem chain_tailSteps {s : State} (hs : s.fault = none) : chain (tailSteps s) s =
    (if s.atSnapshot then snapshotStep else id) ((if s.atBoundary then vblankBoundary else id) s) := by
  unfold tailSteps
  by_cases hb : s.atBoundary <;> by_cases hd : s.atSnapshot
  · rw [if_pos hb, if_pos hd, if_pos hb, if_pos hd]
    exact (proceed_none (vblankBoundary s) _ hs).trans (proceed_id _)
  · rw [if_pos hb, if_neg hd, if_pos hb, if_neg hd]
    exact proceed_id _
  · rw [if_neg hb, if_pos hd, if_neg hb, if_pos hd]
    exact proceed_id _
  · rw [if_neg hb, if_neg hd, if_neg hb, if_neg hd]
    rfl

theorem chain_tailSteps_fault {s : State} (hs : s.fault = none) : (chain (tailSteps s) s).fault = none := by
  rw [chain_tailSteps hs]
  split <;> split <;> exact hs

theorem KeepsLine.tailSteps {s t : State} (h : KeepsLine s t) : tailSteps t = tailSteps s := by
  simp only [Machine.tailSteps, State.atBoundary, State.atSnapshot, h.cfg, h.line, h.std]

/-- The steps of a line. -/
def lineSteps (s : State) : List (State → State) :=
  [padTimeoutStep, padSample, timerStep, hStep, slices] ++ tailSteps s

/-- A line is its steps in order, and then the line count. -/
theorem lineStep_eq {s : State} (hs : s.fault = none) : lineStep s = proceed (chain (lineSteps s) s) nextLine := by
  have hpads : (padTimeoutStep s).fault = none := hs
  have hsample : (padSample (padTimeoutStep s)).fault = none := hs
  have htimer : (timerStep (padSample (padTimeoutStep s))).fault = none := hs
  have hbefore : (beforeSlices s).fault = none := (beforeSlices_fault s).trans hs
  have first : chain [padTimeoutStep, padSample, timerStep, hStep, slices] s = slices (beforeSlices s) := by
    simp only [chain, proceed_none _ _ hpads, proceed_none _ _ hsample, proceed_none _ _ htimer]
    rw [proceed_none _ _ (show (hStep _).fault = none from hbefore), proceed_id]
    rfl
  have htail : tailSteps (slices (beforeSlices s)) = tailSteps s := by
    rw [(slices_keepsLine (beforeSlices s)).tailSteps]
    simp only [tailSteps, State.atBoundary, State.atSnapshot, beforeSlices_cfg, beforeSlices_line, beforeSlices_std]
  rw [lineStep_eq_proceed, lineSteps, chain_append _ _ hs, first, proceed_assoc]
  by_cases h : (slices (beforeSlices s)).fault = none
  · rw [proceed_none _ _ h, proceed_none _ _ h, ← htail, proceed_none _ _ (chain_tailSteps_fault h),
      chain_tailSteps h, lineTail_eq]
  · rw [proceed_some _ _ h, proceed_some _ _ h]

/-! What a line leaves, where no fault is recorded. -/

/-- `t` is one line after `s`. -/
structure LineAfter (s t : State) : Prop where
  cfg : t.cfg = s.cfg
  line : t.sched.line = s.sched.line + 1
  std : t.sched.std = s.sched.std
  slice : t.sched.slice = .none
  hblank : t.vdp.stHblank = false
  padLatch : t.sched.padLatch = (sampleCell Config.padDraw s.host.pad).1
  frameComplete : t.sched.frameComplete = (s.sched.frameComplete || s.atBoundary)
  vblank : t.vdp.stVblank = (s.vdp.stVblank || s.atBoundary)
  raised : s.atBoundary → t.sched.irqV = true ∧ t.vdp.stF = true
  synths : t.synths = s.synths
  tgt : ∀ d, t.sched.tgt.get d = lineEnd s d
  odo : ∀ d, s.sched.odo.get d ≤ s.sched.line * (s.cfg.cpl.get d).get s.sched.std →
    t.sched.odo.get d ≤ lineEnd s d

theorem lineStep_after {s : State} (hs : s.cfg.wf = true) (h : (lineStep s).fault = none) :
    LineAfter s (lineStep s) := by
  have hslices : (slices (beforeSlices s)).fault = none := fault_of_proceed h
  have keeps := slices_keepsLine (beforeSlices s)
  obtain ⟨hslice, hhblank, hreach⟩ := slices_reach ((beforeSlices_cfg s).symm ▸ hs) hslices
  have hend : lineEnd (beforeSlices s) = lineEnd s := by
    funext d
    simp only [lineEnd, beforeSlices_cfg, beforeSlices_line, beforeSlices_std]
  have hboundary : (slices (beforeSlices s)).atBoundary ↔ s.atBoundary := by
    simp only [State.atBoundary, keeps.cfg, keeps.line, keeps.std, beforeSlices_cfg, beforeSlices_line,
      beforeSlices_std]
  simp only [hend, beforeSlices_odo, beforeSlices_line, beforeSlices_cfg, beforeSlices_std] at hreach
  rw [lineStep_eq_proceed, proceed_none _ _ hslices, lineTail_only]
  exact {
    cfg := keeps.cfg.trans (beforeSlices_cfg s)
    line := congrArg (· + 1) (keeps.line.trans (beforeSlices_line s))
    std := keeps.std.trans (beforeSlices_std s)
    slice := hslice
    hblank := hhblank
    padLatch := keeps.padLatch.trans (beforeSlices_padLatch s)
    frameComplete := by simp only [keeps.frameComplete, beforeSlices_frameComplete, hboundary]
    vblank := by simp only [keeps.vblank, beforeSlices_vblank, hboundary]
    raised := fun hb => by simp only [decide_eq_true (hboundary.mpr hb), Bool.or_true, and_self]
    synths := keeps.synths.trans (beforeSlices_synths s)
    tgt := fun d => (hreach d).1
    odo := fun d => (hreach d).2.2 }

theorem lineStep_calls_le (s : State) : (lineStep s).calls ≤ s.calls + 4 := by
  refine proceed_keeps (P := fun u => u.calls ≤ s.calls + 4) (beforeSlices_calls s ▸ slices_calls_le _) fun h => ?_
  rw [lineTail_only]
  exact h

theorem lineStep_idle {n : Nat} {s : State} (hs : s.fault = none) (h : s.idle (n + 2)) :
    (lineStep s).fault = none ∧ (lineStep s).idle n := by
  have hbefore : (beforeSlices s).idle (n + 2) := by rwa [State.idle, beforeSlices_engines]
  obtain ⟨hslices, hidle⟩ := slices_idle ((beforeSlices_fault s).trans hs) hbefore
  rw [lineStep_eq_proceed, proceed_none _ _ hslices, lineTail_only]
  exact ⟨hslices, hidle⟩

/-! The rows of a line. -/

theorem runBothTo_ignoresResp (T : Device → Nat) : IgnoresResp (runBothTo T) :=
  IgnoresResp.proceed (runTo_ignoresResp .main (T .main)) (runTo_ignoresResp .aux (T .aux))

theorem slices_ignoresResp : IgnoresResp slices := by
  intro r s
  obtain ⟨q, hq⟩ := runBothTo_ignoresResp (hblankEnd s) r (enterSlice .hblank true s)
  have first : hblankSlice (reply r s) = reply q (hblankSlice s) := hq
  have second : IgnoresResp (displaySlice (lineEnd s)) :=
    (runBothTo_ignoresResp (lineEnd s)).comp fun r _ => ⟨r, rfl⟩
  rw [slices_eq, slices_eq, first]
  exact ((IgnoresResp.proceed (f := id) (fun r _ => ⟨r, rfl⟩) second).proceed fun r _ => ⟨r, rfl⟩) q _

theorem beforeSlices_ignoresResp : IgnoresResp beforeSlices :=
  hStep_ignoresResp.comp (f := fun s => timerStep (padSample (padTimeoutStep s))) fun r _ => ⟨r, rfl⟩

theorem lineStep_ignoresResp : IgnoresResp lineStep :=
  (slices_ignoresResp.comp beforeSlices_ignoresResp).proceed lineTail_ignoresResp

theorem performs_padtimeout : Performs (id, .padtimeout) padTimeoutStep :=
  ⟨fun _ => exec_padtimeout, fun r _ => ⟨r, rfl⟩, padTimeoutStep_cfg⟩

theorem performs_padsample : Performs (id, .padsample) padSample :=
  ⟨fun _ => exec_padsample, fun r _ => ⟨r, rfl⟩, padSample_cfg⟩

theorem performs_timerstep : Performs (id, .timerstep) timerStep :=
  ⟨fun _ => exec_timerstep, fun r _ => ⟨r, rfl⟩, timerStep_cfg⟩

theorem performs_hstep : Performs (id, .hstep) hStep := ⟨fun _ => exec_hstep, hStep_ignoresResp, hStep_cfg⟩

theorem performs_slices : Performs (id, .slices) slices := ⟨fun _ => exec_slices, slices_ignoresResp, slices_cfg⟩

theorem performs_vblankboundary : Performs (id, .vblankboundary) vblankBoundary :=
  ⟨fun _ => exec_vblankboundary, fun r _ => ⟨r, rfl⟩, fun _ => rfl⟩

theorem performs_snapshot : Performs (id, .snapshot) snapshotStep :=
  ⟨fun _ => exec_snapshot, fun r _ => ⟨r, rfl⟩, fun _ => rfl⟩

/-- A row that is there on a condition performs its step on that condition. -/
theorem performs_if {P : Prop} [Decidable P] {p : (State → State) × Instr} {g : State → State} (h : Performs p g) :
    PerformsAll (if P then [p] else []) (if P then [g] else []) := by
  split
  · exact .cons h .nil
  · exact .nil

theorem lineStepIfLeft_of_lt {s : State} (h : s.sched.line < s.cfg.linesTotal.get s.sched.std) :
    lineStepIfLeft s = lineStep s := if_pos h

/-- Settles O48: the rows are the steps of `lineStep`, and `lineStep_after` says what they leave. -/
theorem lineStepAdvances : Obligations.LineStepAdvances := by
  intro s hready boundary
  refine ⟨fun hnone => ?_, fun hleft => ?_⟩
  · rw [exec_linestep hready, lineStepIfLeft, if_neg (Nat.not_lt.mpr hnone)]
    rfl
  · have tail : PerformsAll _ (tailSteps s) :=
      (performs_if (P := boundary) performs_vblankboundary).append
        (performs_if (P := s.atSnapshot) performs_snapshot)
    have steps := runChain_eq performs_padtimeout (.cons performs_padsample (.cons performs_timerstep
      (.cons performs_hstep (.cons performs_slices tail)))) hready
    have hline := lineStep_eq hready.2
    refine ⟨reply .none (lineStep s), reply .none (chain (lineSteps s) s), ?_, ?_, fun hf => ?_, fun hf => ?_,
      fun hidle => (lineStep_idle hready.2 hidle).1, fun hf => ?_⟩
    · rw [exec_linestep hready, lineStepIfLeft_of_lt hleft]
    · rw [List.append_assoc]
      exact steps
    · exact congrArg (reply .none) (hline.trans (proceed_some _ _ hf))
    · exact congrArg (reply .none) (hline.trans (proceed_none _ _ hf))
    · have after := lineStep_after hready.1 hf
      refine ⟨after.line, after.std, after.padLatch, after.frameComplete, fun hb => ?_,
        fun d => ⟨after.tgt d, fun ho => ?_⟩⟩
      · obtain ⟨hirq, hflag⟩ := after.raised hb
        exact ⟨hirq, hflag, after.vblank.trans (by rw [decide_eq_true (p := s.atBoundary) hb, Bool.or_true])⟩
      · exact Nat.le_trans (after.odo d ho) (Nat.le_of_eq (after.tgt d).symm)

end Sys2Proof.Machine

/-! ### A frame (41_frame_scheduler.md R264, R286, R294): its start, every line, its end. -/

namespace Sys2Proof.Machine

theorem lineStepIfLeft_ignoresResp : IgnoresResp lineStepIfLeft := by
  intro r s
  by_cases h : s.sched.line < s.cfg.linesTotal.get s.sched.std
  · rw [lineStepIfLeft_of_lt h, lineStepIfLeft_of_lt (s := reply r s) h]
    exact lineStep_ignoresResp r s
  · exact ⟨r, (if_neg h).trans (congrArg (reply r) (if_neg h).symm)⟩

theorem performs_linestep : Performs (id, .linestep) lineStepIfLeft :=
  ⟨fun _ => exec_linestep, lineStepIfLeft_ignoresResp, lineStepIfLeft_cfg⟩

theorem performs_framestart : Performs (id, .framestart) frameStart :=
  ⟨fun _ => exec_framestart, fun r _ => ⟨r, rfl⟩, fun _ => rfl⟩

theorem lineLoop_eq_chain (n : Nat) : lineLoop n = chain (List.replicate n lineStepIfLeft) := by
  induction n with
  | zero => rfl
  | succ n ih =>
    funext s
    rw [lineLoop, List.replicate_succ, chain, ih]

theorem performs_replicate {p : (State → State) × Instr} {g : State → State} (h : Performs p g) (n : Nat) :
    PerformsAll (List.replicate n p) (List.replicate n g) := by
  induction n with
  | zero => exact .nil
  | succ n ih => exact .cons h ih

/-! What the lines leave. -/

/-- `s` is in a frame of standard `x`, started with `calls` calls and `synths` blocks counted, after `k` of its
lines. -/
structure AfterLines (c : Cfg) (x : Std) (calls synths k : Nat) (s : State) : Prop where
  cfg : s.cfg = c
  std : s.sched.std = x
  line : s.sched.line = k
  slice : s.sched.slice = .none
  hblank : s.vdp.stHblank = false
  frameComplete : c.vblankStart.get x ≤ k → s.sched.frameComplete = true
  vblank : c.vblankStart.get x ≤ k → s.vdp.stVblank = true
  calls_le : s.calls ≤ calls + 4 * k
  synths_eq : s.synths = synths
  odo : ∀ d, s.sched.odo.get d ≤ k * (c.cpl.get d).get x

section
variable {c : Cfg} {x : Std} {calls synths : Nat} (hc : c.wf = true)
include hc

/-- The boundary is passed after line `k` if it was before, or if the line is the last Active one. -/
theorem AfterLines.step {k : Nat} {s : State} (h : AfterLines c x calls synths k s) (hk : k < c.linesTotal.get x)
    (hf : (lineStepIfLeft s).fault = none) : AfterLines c x calls synths (k + 1) (lineStepIfLeft s) := by
  obtain ⟨rfl, rfl, rfl, -, -, hcomplete, hvblank, hcalls, hsynths, hodo⟩ := h
  rw [lineStepIfLeft_of_lt hk] at hf ⊢
  have after := lineStep_after hc hf
  have passed {b : Bool} (hb : s.cfg.vblankStart.get s.sched.std ≤ s.sched.line → b = true)
      (hle : s.cfg.vblankStart.get s.sched.std ≤ s.sched.line + 1) : (b || s.atBoundary) = true := by
    obtain hlt | heq := Nat.lt_or_eq_of_le hle
    · rw [hb (Nat.le_of_lt_succ hlt), Bool.true_or]
    · rw [decide_eq_true (p := s.atBoundary) heq.symm, Bool.or_true]
  exact {
    cfg := after.cfg
    std := after.std
    line := after.line
    slice := after.slice
    hblank := after.hblank
    frameComplete := fun hle => after.frameComplete.trans (passed hcomplete hle)
    vblank := fun hle => after.vblank.trans (passed hvblank hle)
    calls_le := Nat.le_trans (lineStep_calls_le s) (by omega)
    synths_eq := after.synths.trans hsynths
    odo := fun d => after.odo d (hodo d) }

theorem AfterLines.loop {n k : Nat} {s : State} (h : AfterLines c x calls synths k s)
    (hn : k + n ≤ c.linesTotal.get x) (hf : (lineLoop n s).fault = none) :
    AfterLines c x calls synths (k + n) (lineLoop n s) := by
  induction n generalizing k s with
  | zero => exact h
  | succ n ih =>
    have hline : (lineStepIfLeft s).fault = none := fault_of_proceed hf
    have heq : lineLoop (n + 1) s = lineLoop n (lineStepIfLeft s) := proceed_none _ _ hline
    rw [heq] at hf ⊢
    have hnext := h.step hc (by omega) hline
    rw [Nat.add_comm n 1, ← Nat.add_assoc]
    exact ih hnext (by omega) hf

end

theorem lineStepIfLeft_idle {n : Nat} {s : State} (hs : s.fault = none) (h : s.idle (n + 2)) :
    (lineStepIfLeft s).fault = none ∧ (lineStepIfLeft s).idle n := by
  unfold lineStepIfLeft
  split
  · exact lineStep_idle hs h
  · exact ⟨hs, fun d => State.idleFor.mono (h d) (Nat.le_add_right n 2)⟩

theorem lineLoop_idle {n : Nat} {s : State} (hs : s.fault = none) (h : s.idle (2 * n)) :
    (lineLoop n s).fault = none := by
  induction n generalizing s with
  | zero => exact hs
  | succ n ih =>
    obtain ⟨hline, hidle⟩ := lineStepIfLeft_idle hs h
    rw [lineLoop, proceed_none _ _ hline]
    exact ih hline hidle

/-! What the end of a frame leaves. -/

theorem finalizeStep_state (s : State) : (finalizeStep s).2 =
    setSnd { (sampleMute s).2 with synths := s.synths + 1 }
      (timerRebase (frameUs s) { holdToEnd s.cfg s.snd with synthLog := [] }) := by
  unfold finalizeStep
  rfl

theorem frameEnd_state (s : State) : ∃ r, frameEnd s =
    reply r (setSched (finalizeStep s).2 { (finalizeStep s).2.sched with inFrame := false }) := ⟨_, rfl⟩

section
variable (s : State)

@[simp] theorem frameEnd_sched : (frameEnd s).sched = { s.sched with inFrame := false } := by
  obtain ⟨r, hr⟩ := frameEnd_state s
  rw [hr, reply_sched, setSched_sched, finalizeStep_state, setSnd_sched]
  rfl

@[simp] theorem frameEnd_vdp : (frameEnd s).vdp = s.vdp := by
  obtain ⟨r, hr⟩ := frameEnd_state s
  rw [hr, reply_vdp, setSched_vdp, finalizeStep_state, setSnd_vdp]
  rfl

@[simp] theorem frameEnd_fault : (frameEnd s).fault = s.fault := by
  obtain ⟨r, hr⟩ := frameEnd_state s
  rw [hr, reply_fault, setSched_fault, finalizeStep_state, setSnd_fault]
  rfl

@[simp] theorem frameEnd_calls : (frameEnd s).calls = s.calls := by
  obtain ⟨r, hr⟩ := frameEnd_state s
  rw [hr, reply_calls, setSched_calls, finalizeStep_state, setSnd_calls]
  rfl

@[simp] theorem frameEnd_synths : (frameEnd s).synths = s.synths + 1 := by
  obtain ⟨r, hr⟩ := frameEnd_state s
  rw [hr, reply_synths, setSched_synths, finalizeStep_state, setSnd_synths]

@[simp] theorem frameEnd_synthLog : (frameEnd s).snd.synthLog = [] := by
  obtain ⟨r, hr⟩ := frameEnd_state s
  rw [hr, reply_snd, setSched_snd, finalizeStep_state, setSnd_snd]
  rfl

end

/-! The frame itself, from the state in which the cancel flag has been sampled. -/

/-- The state in which the lines of the frame begin. -/
def frameStarted (s : State) : State := reply .none (frameStart s)

/-- The standard the host's flag gives. -/
def sampledStd (s : State) : Std := stdOf (sampleCell (Config.flagDraw .pal) s.host.pal).1

/-- The lines of a frame that has started. -/
def frameLines (s : State) : State := lineLoop (s.cfg.linesTotal.get (sampledStd s)) (frameStarted s)

theorem runFrame_eq (s : State) : runFrame s =
    if (sampleCancel s).1 then reply .cancelled (sampleCancel s).2
    else proceed (frameLines (sampleCancel s).2) frameEnd := rfl

theorem runFrame_of_cancel {s : State} (h : (sampleCancel s).1 = true) :
    runFrame s = reply .cancelled (sampleCancel s).2 := by
  rw [runFrame_eq, if_pos h]

theorem runFrame_of_run {s : State} (h : (sampleCancel s).1 = false) :
    runFrame s = proceed (frameLines (sampleCancel s).2) frameEnd := by
  rw [runFrame_eq, h]
  rfl

section
variable {s : State} (h : s.ready)
include h

theorem frameStarted_afterLines : AfterLines s.cfg (sampledStd s) s.calls s.synths 0 (frameStarted s) := by
  have hstart := Nat.not_le_of_lt (Cfg.vblankStart_bounds h.1 (sampledStd s)).1
  exact ⟨rfl, rfl, rfl, rfl, rfl, fun hle => absurd hle hstart, fun hle => absurd hle hstart, Nat.le_refl _, rfl,
    fun d => by cases d <;> exact Nat.zero_le _⟩

theorem frameLines_afterLines (hf : (frameLines s).fault = none) :
    AfterLines s.cfg (sampledStd s) s.calls s.synths (s.cfg.linesTotal.get (sampledStd s)) (frameLines s) := by
  have lines := (frameStarted_afterLines h).loop h.1 (n := s.cfg.linesTotal.get (sampledStd s)) (by omega) hf
  rwa [Nat.zero_add] at lines

/-- FRAMESTART and a LINESTEP for every line run the lines of the frame. -/
theorem runChain_frameLines : runChain ((id, .framestart) ::
    List.replicate (s.cfg.linesTotal.get (sampledStd s)) (id, .linestep)) s = some (reply .none (frameLines s)) := by
  have hstarted : (frameStarted s).ready := h
  have lines := runChain_reply_none (performs_replicate performs_linestep (s.cfg.linesTotal.get (sampledStd s)))
    hstarted
  rw [← lineLoop_eq_chain] at lines
  exact (runChain_cons performs_framestart h s.resp).trans ((if_pos h.2).trans lines)

/-- A frame whose lines record no fault is FRAMESTART, its LINESTEPs and FRAMEEND. -/
theorem runChain_frame (hf : (frameLines s).fault = none) : runChain ((id, .framestart) ::
    List.replicate (s.cfg.linesTotal.get (sampledStd s)) (id, .linestep) ++ [(id, .frameend)]) s =
      some (frameEnd (frameLines s)) := by
  have hready : (frameLines s).ready := ⟨((lineLoop_cfg _ _).trans rfl : (frameLines s).cfg = s.cfg) ▸ h.1, hf⟩
  have hend : exec .frameend (reply .none (frameLines s)) = .next (frameEnd (frameLines s)) :=
    (exec_frameend (s := reply .none (frameLines s)) hready).trans rfl
  rw [runChain_append (runChain_frameLines h) hf, runChain]
  simp only [id_eq, hend, runChain, ite_self]

end

/-- Idle engines complete the lines of a frame. -/
theorem frameLines_idle {s : State} (hs : s.fault = none) (h : s.idle (2 * s.cfg.linesTotal.get (sampledStd s))) :
    (frameLines s).fault = none := by
  have hstarted : (frameStarted s).idle (2 * s.cfg.linesTotal.get (sampledStd s)) := h
  exact lineLoop_idle hs hstarted

/-- Settles O49: the lines are counted by `AfterLines`; the frame's end leaves what it says. -/
theorem frameRunsEveryLine : Obligations.FrameRunsEveryLine := by
  intro s hready cancel s1 std N
  have hready1 : s1.ready := hready
  refine ⟨fun hgo => ?_, fun hcancel => ?_, fun hv hw hh => ?_⟩
  · have hrun : runFrame s = proceed (frameLines s1) frameEnd := runFrame_of_run hgo
    refine ⟨_, exec_runframe hready, fun hidle => ?_, fun hf => ?_⟩
    · have hlines : (frameLines s1).fault = none := frameLines_idle hready1.2 hidle
      rw [hrun, proceed_none _ _ hlines, frameEnd_fault]
      exact hlines
    · rw [hrun] at hf ⊢
      have hlines : (frameLines s1).fault = none := fault_of_proceed hf
      have after := frameLines_afterLines hready1 hlines
      have hchain := runChain_frame hready1 hlines
      have hpassed := (Cfg.vblankStart_bounds hready.1 std).2
      rw [proceed_none _ _ hlines]
      simp only [frameEnd_sched, frameEnd_vdp, frameEnd_calls, frameEnd_synths, frameEnd_synthLog]
      exact ⟨hchain, after.std, after.line, trivial, after.slice, after.frameComplete hpassed, after.vblank hpassed,
        after.hblank, after.calls_le, congrArg (· + 1) after.synths_eq, trivial, after.odo⟩
  · rw [exec_runframe hready, runFrame_of_cancel hcancel]
    rfl
  · have hsample : sampleCancel s = (true, s) := by
      rw [sampleCancel, sampleCell_held (Config.flagDraw .cancel) s.host.cancel hw hh, hv]
      rfl
    rw [exec_runframe hready, runFrame_of_cancel (by rw [hsample]), hsample]
    rfl

end Sys2Proof.Machine

/-! ### The ports of the VDP (40_bus_operations.md R230 to R233): every operation that brings a word to a port, by its
row, by word or by byte, is the port's operation on that word. -/

namespace Sys2Proof.Machine

theorem State.ready.setVdp {s : State} (h : s.ready) (v : Vdp) : (setVdp s v).ready := ⟨h.1, h.2⟩

theorem vdpPort_data {o : BitVec 5} (h : o.toNat < 4) : vdpPort o = .data := if_pos h

theorem vdpPort_ctrl {o : BitVec 5} (hlo : 4 ≤ o.toNat) (hhi : o.toNat < 8) : vdpPort o = .ctrl :=
  (if_neg (Nat.not_lt.mpr hlo)).trans (if_pos hhi)

section
variable {s : State} {a : Addr} (hr : region s.cfg s.bus a = .vdp (field a 0 5))
include hr

theorem busRd16_data (hp : vdpPort (field a 0 5) = .data) : busRd16 a s = dataPortRead16 s := by
  simp only [busRd16, hr, hp]

theorem busRd16_ctrl (hp : vdpPort (field a 0 5) = .ctrl) : busRd16 a s = ctrlPortRead16 s := by
  simp only [busRd16, hr, hp]

theorem busRd8_data (hp : vdpPort (field a 0 5) = .data) : busRd8 a s = dataPortRead8 (a.getLsbD 0) s := by
  simp only [busRd8, hr, vdpBlockRead8, hp, getLsbD_zero_offset]

theorem busRd8_ctrl (hp : vdpPort (field a 0 5) = .ctrl) : busRd8 a s = ctrlPortRead8 (a.getLsbD 0) s := by
  simp only [busRd8, hr, vdpBlockRead8, hp, getLsbD_zero_offset]

variable (now : Nat)

theorem busWr16_data (hp : vdpPort (field a 0 5) = .data) (w : Half) : busWr16 now a w s = dataPortWrite16 w s := by
  simp only [busWr16, hr, hp]

theorem busWr16_ctrl (hp : vdpPort (field a 0 5) = .ctrl) (w : Half) : busWr16 now a w s = ctrlPortWrite16 w s := by
  simp only [busWr16, hr, hp]

theorem busWr8_data (hp : vdpPort (field a 0 5) = .data) (v : Byte) :
    busWr8 now a v s = dataPortWrite16 (v ++ v) s := by
  simp only [busWr8, hr, vdpBlockWrite8, hp, wordOf]

theorem busWr8_ctrl (hp : vdpPort (field a 0 5) = .ctrl) (v : Byte) :
    busWr8 now a v s = ctrlPortWrite16 (v ++ v) s := by
  simp only [busWr8, hr, vdpBlockWrite8, hp, wordOf]

end

section
variable {s : State} (h : s.ready) (w : Half) {i : Instr}
include h

/-- A word at the data port, by word or on both lanes. -/
theorem exec_dataPortWord (hi : dataPortWord s.cfg w i) : exec i s = .next (reply .none (dataPortWrite16 w s)) := by
  obtain ⟨x, a, hwin, hlt, hi⟩ := hi
  have hr := region_vdpWin h.1 s.bus hwin
  have hp := vdpPort_data hlt
  have word := exec_wr16 h x a w
  rw [busWr16_data hr _ hp] at word
  obtain rfl | rfl | ⟨v, rfl, hi⟩ := hi
  · exact word
  · exact word
  · have byte := exec_wr8 h x a v
    rw [busWr8_data hr _ hp] at byte
    obtain rfl | rfl | rfl := hi <;> exact byte

/-- A word at the control port, by word or on both lanes. -/
theorem exec_ctrlPortWord (hi : ctrlPortWord s.cfg w i) : exec i s = .next (reply .none (ctrlPortWrite16 w s)) := by
  obtain ⟨x, a, hwin, hlo, hhi, hi⟩ := hi
  have hr := region_vdpWin h.1 s.bus hwin
  have hp := vdpPort_ctrl hlo hhi
  have word := exec_wr16 h x a w
  rw [busWr16_ctrl hr _ hp] at word
  obtain rfl | rfl | ⟨v, rfl, hi⟩ := hi
  · exact word
  · exact word
  · have byte := exec_wr8 h x a v
    rw [busWr8_ctrl hr _ hp] at byte
    obtain rfl | rfl | rfl := hi <;> exact byte

/-- A data word by its row. -/
theorem exec_vdataWr : exec (.vdataWr w) s = .next (reply .none (dataPortWrite16 w s)) :=
  guarded_ready h fun y => reply .none (dataPortWrite16 w y)

theorem exec_dataWord (hi : i = .vdataWr w ∨ dataPortWord s.cfg w i) :
    exec i s = .next (reply .none (dataPortWrite16 w s)) := by
  obtain rfl | hi := hi
  · exact exec_vdataWr h w
  · exact exec_dataPortWord h w hi

/-- A word brought to the control port: by one of the three rows the word has, or at the port (log 11). -/
def ctrlWord (c : Cfg) (w : Half) (i : Instr) : Prop :=
  (∃ z r d, w = regsetWord z r d ∧ i = .regset z r d) ∨ (∃ k a, w = cmd1Word k a ∧ i = .cmd1 k a) ∨
    (∃ x cc y aa, w = cmd2Word x cc y aa ∧ i = .cmd2 x cc y aa) ∨ ctrlPortWord c w i

theorem exec_ctrlWord (hi : ctrlWord s.cfg w i) : exec i s = .next (reply .none (ctrlPortWrite16 w s)) := by
  obtain ⟨z, r, d, rfl, rfl⟩ | ⟨k, a, rfl, rfl⟩ | ⟨x, cc, y, aa, rfl, rfl⟩ | hi := hi
  · exact guarded_ready h fun y => reply .none (ctrlPortWrite16 (regsetWord z r d) y)
  · exact guarded_ready h fun y => reply .none (ctrlPortWrite16 (cmd1Word k a) y)
  · exact guarded_ready h fun u => reply .none (ctrlPortWrite16 (cmd2Word x cc y aa) u)
  · exact exec_ctrlPortWord h w hi

/-- The rows of a command word are all `Command` of it (log 12). -/
theorem exec_commandRow {w : CmdWord} (hi : i ∈ [.command w, .dmaflag w, .modeVramRd w, .modeVramWr w, .modeCramWr w,
      .modeVsramRd w, .modeVsramWr w, .modeCramRd w, .modeInvalid w]) :
    exec i s = .next (reply .none (vdpCommand w s)) := by
  simp only [List.mem_cons, List.not_mem_nil, or_false] at hi
  obtain rfl | rfl | rfl | rfl | rfl | rfl | rfl | rfl | rfl := hi <;>
    exact guarded_ready h fun y => reply .none (vdpCommand w y)

end

/-! The reads (R230 to R233, R332, R338): by the row and at the port by word, or one lane of the word by byte. -/

section
variable {s : State} (h : s.ready) (x : Ctx) {a : Addr} (hwin : inWin s.cfg.vdpWin a = true) {i : Instr}
include h hwin

theorem exec_dataRead16 (hp : (field a 0 5).toNat < 4) (hi : i = .vdataRd ∨ i = .rd16 x a ∨ i = .rd16Vdpdata x a) :
    exec i s = .next (replyWord (dataPortRead16 s)) := by
  have word := exec_rd16 h x a
  rw [busRd16_data (region_vdpWin h.1 s.bus hwin) (vdpPort_data hp)] at word
  obtain rfl | rfl | rfl := hi
  · exact guarded_ready h fun y => replyWord (dataPortRead16 y)
  · exact word
  · exact word

theorem exec_dataRead8 (hp : (field a 0 5).toNat < 4) (hi : i = .rd8 x a ∨ i = .rd8Vdp x a ∨ i = .rd8Vdpdata x a) :
    exec i s = .next (replyByte (dataPortRead8 (a.getLsbD 0) s)) := by
  have byte := exec_rd8 h x a
  rw [busRd8_data (region_vdpWin h.1 s.bus hwin) (vdpPort_data hp)] at byte
  obtain rfl | rfl | rfl := hi <;> exact byte

variable (hlo : 4 ≤ (field a 0 5).toNat) (hhi : (field a 0 5).toNat < 8)
include hlo hhi

theorem exec_ctrlRead16 (hi : i = .vstat ∨ i = .rd16 x a ∨ i = .rd16Vdpctrl x a) :
    exec i s = .next (replyWord (ctrlPortRead16 s)) := by
  have word := exec_rd16 h x a
  rw [busRd16_ctrl (region_vdpWin h.1 s.bus hwin) (vdpPort_ctrl hlo hhi)] at word
  obtain rfl | rfl | rfl := hi
  · exact guarded_ready h fun y => replyWord (ctrlPortRead16 y)
  · exact word
  · exact word

theorem exec_ctrlRead8 (hi : i = .rd8 x a ∨ i = .rd8Vdp x a ∨ i = .rd8Vdpctrl x a) :
    exec i s = .next (replyByte (ctrlPortRead8 (a.getLsbD 0) s)) := by
  have byte := exec_rd8 h x a
  rw [busRd8_ctrl (region_vdpWin h.1 s.bus hwin) (vdpPort_ctrl hlo hhi)] at byte
  obtain rfl | rfl | rfl := hi <;> exact byte

end

end Sys2Proof.Machine

/-! ### The control port (42_vdp_ports_dma.md R324 to R332): register sets, commands, the status word. -/

namespace Sys2Proof.Machine

/-- The DMA flag of a command is the top bit of its high code field (30_encoding.md R157). -/
theorem getLsbD_cmdCode_five (w : CmdWord) : (cmdCode w).getLsbD 5 = w.cc.getLsbD 3 := by
  exact (BitVec.getLsbD_append (x := w.cc) (y := w.c)).trans (if_neg (by decide))

section
variable (w : CmdWord) (s : State)

/-- The state after the fields of a command are taken (R328). -/
def takeCommand : State := setVdp s { s.vdp with code := w.cc ++ w.c, addr := w.aa ++ w.a, fillArmed := false }

/-- The state after a first half is kept (R324). -/
def keepHalf (h : Half) (s : State) : State := setVdp s { s.vdp with cmdHi := h, pend := true }

theorem vdpCommand_plain (h : w.cc.getLsbD 3 = false ∨ (vreg s.vdp 1).getLsbD 4 = false) :
    vdpCommand w s = takeCommand w s := by
  refine if_neg ?_
  rw [getLsbD_cmdCode_five, Bool.and_eq_true, Decidable.not_and_iff_or_not, Bool.not_eq_true, Bool.not_eq_true]
  exact h

theorem vdpCommand_starts (hflag : w.cc.getLsbD 3 = true) (hen : (vreg s.vdp 1).getLsbD 4 = true) :
    vdpCommand w s = dmaStart (takeCommand w s) := by
  refine if_pos ?_
  rw [getLsbD_cmdCode_five, Bool.and_eq_true]
  exact ⟨hflag, hen⟩

end

/-! A control word (R324), by whether a command is pending and by its top bits. -/

section
variable {s : State}

theorem ctrlPortWrite16_pending (w : Half) (h : s.vdp.pend = true) : ctrlPortWrite16 w s =
    vdpCommand (cmdFields (s.vdp.cmdHi ++ w)) (setVdp s { s.vdp with pend := false }) := if_pos h

variable (h : s.vdp.pend = false)
include h

theorem ctrlPortWrite16_regset (z : BitVec 1) (r : BitVec 5) (d : Byte) :
    ctrlPortWrite16 (regsetWord z r d) s = setVdp s (regPut r d s.vdp) := by
  refine (if_neg (Bool.eq_false_iff.mp h)).trans ((if_pos (regsetWord_top z r d)).trans ?_)
  rw [regsetWord_r, regsetWord_d]

theorem ctrlPortWrite16_firstHalf {c : BitVec 2} (hc : c ≠ 2) (a : BitVec 14) :
    ctrlPortWrite16 (cmd1Word c a) s = keepHalf (cmd1Word c a) s := by
  refine (if_neg (Bool.eq_false_iff.mp h)).trans (if_neg ?_)
  rwa [cmd1Word_c]

end

/-- Settles O32: each of the rows is the control word of the register set, and no command is pending. -/
theorem registerSet : Obligations.RegisterSet := by
  intro s x a z r d hready hwf hpend hwin hlo hhi i hi
  have word : ctrlWord s.cfg (regsetWord z r d) i := by
    obtain rfl | rfl | rfl | ⟨hlanes, hi⟩ := hi
    · exact .inl ⟨z, r, d, rfl, rfl⟩
    · exact .inr (.inr (.inr ⟨x, a, hwin, hlo, hhi, .inl rfl⟩))
    · exact .inr (.inr (.inr ⟨x, a, hwin, hlo, hhi, .inr (.inl rfl)⟩))
    · exact .inr (.inr (.inr ⟨x, a, hwin, hlo, hhi, .inr (.inr ⟨d, hlanes, hi⟩)⟩))
  refine ⟨Memory.put 0 s.vdp.vr r.toNat d, ?_, fun n => Memory.get_put _ _ hwf _ n d⟩
  rw [exec_ctrlWord hready _ word, ctrlPortWrite16_regset hpend]
  rfl

/-- The second half after a first half makes the command of both halves' fields. -/
theorem ctrlPortWrite16_secondHalf {s : State} {c : BitVec 2} {a : BitVec 14} {x : BitVec 8} {cc : BitVec 4}
    {y aa : BitVec 2} (hpend : s.vdp.pend = true) (hhi : s.vdp.cmdHi = cmd1Word c a)
    (hdma : cc.getLsbD 3 = false ∨ (vreg s.vdp 1).getLsbD 4 = false) :
    ctrlPortWrite16 (cmd2Word x cc y aa) s =
      takeCommand ⟨c, a, x, cc, y, aa⟩ (setVdp s { s.vdp with pend := false }) := by
  rw [ctrlPortWrite16_pending _ hpend, hhi, cmdFields_halves]
  exact vdpCommand_plain ⟨c, a, x, cc, y, aa⟩ (setVdp s { s.vdp with pend := false }) hdma

/-- Settles O33: a first half is kept, and while it is, every control word is read as a second half. -/
theorem commandHalvesAssemble : Obligations.CommandHalvesAssemble := by
  constructor
  · intro s c a hready hpend hc i hi
    have first : exec i s = .next (reply .none (keepHalf (cmd1Word c a) s)) := by
      rw [← ctrlPortWrite16_firstHalf hpend hc]
      refine exec_ctrlWord hready _ ?_
      obtain rfl | hi := hi
      · exact .inr (.inl ⟨c, a, rfl, rfl⟩)
      · exact .inr (.inr (.inr hi))
    refine ⟨first, fun x cc y aa j hdma hj => ?_⟩
    have second : ctrlWord s.cfg (cmd2Word x cc y aa) j := by
      obtain rfl | hj := hj
      · exact .inr (.inr (.inl ⟨x, cc, y, aa, rfl, rfl⟩))
      · exact .inr (.inr (.inr hj))
    have hready' : (reply .none (keepHalf (cmd1Word c a) s)).ready := (hready.setVdp _).reply (.refl _) _
    refine runAll_concat (l := [i]) (t := reply .none (keepHalf (cmd1Word c a) s)) ?_ ?_
    · simp only [runAll, first]
    · rw [exec_ctrlWord hready' _ second, ctrlPortWrite16_reply,
        ctrlPortWrite16_secondHalf (s := keepHalf (cmd1Word c a) s) rfl rfl hdma, reply_reply, takeCommand, keepHalf,
        cmd1Word]
      rfl
  · intro s w hready hpend
    refine ⟨_, exec_commandRow (hready.setVdp { s.vdp with pend := false }) (.head _), fun i hi => ?_⟩
    rw [exec_ctrlWord hready w hi, ctrlPortWrite16_pending w hpend]

/-! The codes of the rows of a command word (30_encoding.md R157, R158). -/

/-- A field that lies under a mask is the field of the masked word. -/
theorem field_of_masked {n lo len : Nat} {w m p : BitVec n} (hm : field m lo len = BitVec.allOnes len)
    (h : w &&& m = p) : field w lo len = field p lo len := by
  rw [← h]
  have split : field (w &&& m) lo len = field w lo len &&& field m lo len := BitVec.extractLsb'_and
  rw [split, hm, BitVec.and_allOnes]

/-- A field of a field. -/
theorem field_field {n : Nat} (w : BitVec n) (lo k lo' len : Nat) (h : lo' + len ≤ k) :
    field (field w lo k) lo' len = field w (lo + lo') len := by
  apply BitVec.eq_of_getLsbD_eq
  intro i hi
  simp [field, hi, show lo' + i < k by omega, Nat.add_assoc]

/-- The lowest bits of two values end to end, as far as into the high one. -/
theorem field_append_across {n m : Nat} (x : BitVec n) (y : BitVec m) (len : Nat) :
    field (x ++ y) 0 (len + m) = field x 0 len ++ y := by
  apply BitVec.eq_of_getLsbD_eq
  intro i hi
  simp only [field, BitVec.getLsbD_extractLsb', BitVec.getLsbD_append, hi, decide_true, Bool.true_and, Nat.zero_add]
  split
  · rfl
  · simp [show i - m < len by omega]

section
variable {w : CmdWord}

theorem field_cmdWord_c : field (cmdWord w) 30 2 = w.c := congrArg CmdWord.c (cmdFields_cmdWord w)

theorem field_cmdWord_cc : field (cmdWord w) 4 4 = w.cc := congrArg CmdWord.cc (cmdFields_cmdWord w)

/-- The transfer mode of a command word, by the bits that the patterns of the mode rows fix. -/
theorem field_cmdCode_mode : field (w.cc ++ w.c) 0 4 = field (cmdWord w) 4 2 ++ field (cmdWord w) 30 2 := by
  refine (field_append_across w.cc w.c 2).trans ?_
  rw [field_cmdWord_c, ← field_cmdWord_cc, field_field _ _ _ _ _ (by decide)]

/-- An operation of a command word's row is well formed when the word has the row's pattern and meets its condition. -/
theorem commandRow_wf {i : Instr} {p m : BitVec 32} (hw : rowWord i = cmdWord w)
    (hrow : rowAt (rowOf i) = ⟨32, p, m⟩) (hop : operandsWf i = true) :
    i.wf = true ↔ cmdWord w &&& m = p ∧ rowCond (rowOf i) (cmdWord w) = true := by
  simp only [Instr.wf, fits, hw, hrow, hop, BitVec.isLt, decide_true, Bool.true_and, Bool.and_true, Bool.and_eq_true,
    decide_eq_true_eq]

/-- A well-formed operation of a mode row has the mode of the row's pattern. -/
theorem mode_of_row {i : Instr} {p : BitVec 32} {k : BitVec 4} (h : i.wf = true) (hw : rowWord i = cmdWord w)
    (hrow : rowAt (rowOf i) = ⟨32, p, 0xC0000030#32⟩) (hop : operandsWf i = true)
    (hk : field p 4 2 ++ field p 30 2 = k) : field (w.cc ++ w.c) 0 4 = k := by
  obtain ⟨hmask, -⟩ := (commandRow_wf hw hrow hop).mp h
  rw [field_cmdCode_mode, field_of_masked (by decide) hmask, field_of_masked (by decide) hmask, hk]

/-- The row of a reserved mode asks for a mode that is none of the six (R158). -/
theorem modeInvalid_wf : (Instr.modeInvalid w).wf = true ↔ modeOf (w.cc ++ w.c) = .invalid := by
  have cond : rowCond 83 (cmdWord w) = decide (modeOf (cmdCode (cmdFields (cmdWord w))) = .invalid) := rfl
  rw [commandRow_wf (i := .modeInvalid w) (p := 0) (m := 0) rfl rfl rfl, rowOf, cond, cmdFields_cmdWord, decide_eq_true_eq]
  exact and_iff_right BitVec.and_zero

/-- The row of the DMA flag asks for the flag (R157). -/
theorem dmaflag_wf : (Instr.dmaflag w).wf = true ↔ w.cc.getLsbD 3 = true := by
  have flag : (cmdWord w).getLsbD 7 = w.cc.getLsbD 3 := by
    rw [← field_cmdWord_cc (w := w)]
    simp [field]
  have mask : cmdWord w &&& 0x80#32 = 0x80#32 ↔ (cmdWord w).getLsbD 7 = true := by
    rw [show 0x80#32 = BitVec.twoPow 32 7 by decide, BitVec.and_twoPow]
    cases (cmdWord w).getLsbD 7 <;> decide
  rw [commandRow_wf (i := .dmaflag w) rfl rfl rfl, ← flag]
  exact (and_iff_left rfl).trans mask

end

theorem modeOf_invalid : ∀ k : BitVec 6, modeOf k = .invalid ↔
    field k 0 4 ∉ [0b0000#4, 0b0001#4, 0b0011#4, 0b0100#4, 0b0101#4, 0b1000#4] := by decide

/-- Settles O34: a command that starts no DMA takes its fields only; a row's mode is the one its pattern fixes. -/
theorem plainCommand : Obligations.PlainCommand := by
  constructor
  · intro s w hready hdma i hi
    have command : exec i s = .next (reply .none (vdpCommand w s)) := by
      obtain rfl | rfl | rfl | rfl | rfl | rfl | rfl | rfl | rfl := hi <;> exact exec_commandRow hready (by simp)
    rw [command, vdpCommand_plain w s hdma]
    rfl
  · intro w
    refine ⟨fun h => ?_, fun h => ?_, fun h => ?_, fun h => ?_, fun h => ?_, fun h => ?_, ?_, ?_⟩
    · exact mode_of_row h rfl rfl rfl (by decide)
    · exact mode_of_row h rfl rfl rfl (by decide)
    · exact mode_of_row h rfl rfl rfl (by decide)
    · exact mode_of_row h rfl rfl rfl (by decide)
    · exact mode_of_row h rfl rfl rfl (by decide)
    · exact mode_of_row h rfl rfl rfl (by decide)
    · exact modeInvalid_wf.trans (modeOf_invalid _)
    · exact dmaflag_wf

/-- The status word, bit by bit (R332). -/
theorem getLsbD_statusWord (v : Vdp) (x : Std) :
    (statusWord v x).getLsbD 9 = true ∧ (statusWord v x).getLsbD 7 = v.stF ∧
      (statusWord v x).getLsbD 3 = v.stVblank ∧ (statusWord v x).getLsbD 2 = v.stHblank ∧
      (statusWord v x).getLsbD 0 = decide (x = .pal) ∧
      ∀ k, k ∉ [9, 7, 3, 2, 0] → (statusWord v x).getLsbD k = false := by
  have bits : (statusWord v x).getLsbD 9 = true ∧ (statusWord v x).getLsbD 7 = v.stF ∧
      (statusWord v x).getLsbD 3 = v.stVblank ∧ (statusWord v x).getLsbD 2 = v.stHblank ∧
      (statusWord v x).getLsbD 0 = decide (x = .pal) ∧
      ∀ k, k < 16 → k ∉ [9, 7, 3, 2, 0] → (statusWord v x).getLsbD k = false := by
    unfold statusWord
    cases v.stF <;> cases v.stVblank <;> cases v.stHblank <;> cases x <;> decide
  obtain ⟨h9, h7, h3, h2, h0, low⟩ := bits
  exact ⟨h9, h7, h3, h2, h0, fun k hk => (Nat.lt_or_ge k 16).elim (fun h => low k h hk) (BitVec.getLsbD_of_ge _ k)⟩

/-- Settles O37: the word is the status word, by word or one lane of it by byte. -/
theorem statusRead : Obligations.StatusRead := by
  intro s x a hready hwin hlo hhi
  exact ⟨statusWord s.vdp s.sched.std, fun i hi => exec_ctrlRead16 hready x hwin hlo hhi hi,
    fun i hi => exec_ctrlRead8 hready x hwin hlo hhi hi, getLsbD_statusWord s.vdp s.sched.std⟩

end Sys2Proof.Machine

/-! ### The data port (42_vdp_ports_dma.md R334 to R342): the primitive writers, a data unit by mode, and reads. -/

namespace Sys2Proof.Machine

/-! The primitive writers: what they change, and what the tables they write read as (log 30 for a memory of size 0). -/

section
variable (c : Cfg) (A : Nat) (x : Byte) (e : Nat) (d : Half) (v : Vdp)

theorem vramPut_eq : vramPut c A x v =
    { v with
      vram := if A < c.vramSize then Memory.put 0 v.vram A x else v.vram
      dirtyVram := if A < c.vramSize then Memory.put false v.dirtyVram (A / 256) true else v.dirtyVram
      dirtySprite := true } := by
  unfold vramPut
  split <;> rfl

theorem cramPut_eq : cramPut c e d v =
    { v with
      cram := if e < c.cramN then Memory.put 0 v.cram e d else v.cram
      dirtyCram := if e < c.cramN then Memory.put false v.dirtyCram e true else v.dirtyCram
      dirtyPalette := true } := by
  unfold cramPut
  split <;> rfl

variable {c A v}

theorem wf_vramPut (h : Memory.wf 0 v.vram) : Memory.wf 0 (vramPut c A x v).vram := by
  rw [vramPut_eq]
  dsimp only
  split
  · exact Memory.wf_put _ _ h _ _
  · exact h

theorem wf_vramPut_dirty (h : Memory.wf false v.dirtyVram) : Memory.wf false (vramPut c A x v).dirtyVram := by
  rw [vramPut_eq]
  dsimp only
  split
  · exact Memory.wf_put _ _ h _ _
  · exact h

/-- What a table reads as after a write that is made only where `P` holds. -/
theorem Memory.get_ite_put {α : Type} [DecidableEq α] {dflt : α} {m : Sparse α} (h : wf dflt m) (P : Prop)
    [Decidable P] (a k : Nat) (y : α) :
    get dflt (if P then put dflt m a y else m) k = if k = a ∧ P then y else get dflt m k := by
  by_cases hP : P
  · rw [if_pos hP, get_put dflt m h]
    simp only [hP, and_true]
  · rw [if_neg hP, if_neg fun hk => hP hk.2]

theorem get_vramPut (h : Memory.wf 0 v.vram) (k : Nat) : Memory.get 0 (vramPut c A x v).vram k =
    if k = A ∧ A < c.vramSize then x else Memory.get 0 v.vram k := by
  rw [vramPut_eq]
  exact Memory.get_ite_put h _ A k x

theorem get_vramPut_ne {k : Nat} (hk : k ≠ A) :
    Memory.get 0 (vramPut c A x v).vram k = Memory.get 0 v.vram k := by
  rw [vramPut_eq]
  dsimp only
  split
  · exact Memory.get_put_ne 0 _ x hk
  · rfl

theorem get_vramPut_dirty (h : Memory.wf false v.dirtyVram) (k : Nat) :
    Memory.get false (vramPut c A x v).dirtyVram k =
      if k = A / 256 ∧ A < c.vramSize then true else Memory.get false v.dirtyVram k := by
  rw [vramPut_eq]
  exact Memory.get_ite_put h _ (A / 256) k true

theorem get_cramPut (h : Memory.wf 0 v.cram) (k : Nat) : Memory.get 0 (cramPut c e d v).cram k =
    if k = e ∧ k < c.cramN then d else Memory.get 0 v.cram k := by
  rw [cramPut_eq]
  have bound : k = e ∧ e < c.cramN ↔ k = e ∧ k < c.cramN := and_congr_right fun hk => by rw [hk]
  exact (Memory.get_ite_put h _ e k d).trans (ite_congr (propext bound) (fun _ => rfl) fun _ => rfl)

theorem get_cramPut_dirty (h : Memory.wf false v.dirtyCram) (k : Nat) :
    Memory.get false (cramPut c e d v).dirtyCram k =
      if k = e ∧ k < c.cramN then true else Memory.get false v.dirtyCram k := by
  rw [cramPut_eq]
  have bound : k = e ∧ e < c.cramN ↔ k = e ∧ k < c.cramN := and_congr_right fun hk => by rw [hk]
  exact (Memory.get_ite_put h _ e k true).trans (ite_congr (propext bound) (fun _ => rfl) fun _ => rfl)

end

/-! The modes (30_encoding.md R158), by the low four bits of the code. -/

theorem modeOf_vramWr : ∀ k : BitVec 6, modeOf k = .vramWr ↔ field k 0 4 = 0b0001 := by decide

theorem modeOf_cramWr : ∀ k : BitVec 6, modeOf k = .cramWr ↔ field k 0 4 = 0b0011 := by decide

theorem modeOf_vsramWr : ∀ k : BitVec 6, modeOf k = .vsramWr ↔ field k 0 4 = 0b0101 := by decide

theorem modeOf_vramRd : ∀ k : BitVec 6, modeOf k = .vramRd ↔ field k 0 4 = 0b0000 := by decide

theorem modeOf_cramRd : ∀ k : BitVec 6, modeOf k = .cramRd ↔ field k 0 4 = 0b1000 := by decide

theorem modeOf_vsramRd : ∀ k : BitVec 6, modeOf k = .vsramRd ↔ field k 0 4 = 0b0100 := by decide

/-! What a data word does at its target (R335). -/

section
variable (c : Cfg) (d : Half) {v : Vdp}

theorem dataPut_vramWr (h : modeOf v.code = .vramWr) : dataPut c d v =
    vramPut c (vramIx c v ^^^ 1) (loByte d) (vramPut c (vramIx c v) (hiByte d) v) := by
  simp only [dataPut, h]

theorem dataPut_cramWr (h : modeOf v.code = .cramWr) : dataPut c d v = cramPut c (entryIx v % c.cramN) d v := by
  simp only [dataPut, h]

theorem dataPut_vsramWr (h : modeOf v.code = .vsramWr) (he : entryIx v < c.vsramN) :
    dataPut c d v = vsramPut (entryIx v) d v := by
  simp only [dataPut, h, if_pos he]

theorem dataPut_vsramWr_beyond (h : modeOf v.code = .vsramWr) (he : ¬ entryIx v < c.vsramN) :
    dataPut c d v = v := by
  simp only [dataPut, h, if_neg he]

theorem dataPut_noTarget (hvram : modeOf v.code ≠ .vramWr) (hcram : modeOf v.code ≠ .cramWr)
    (hvsram : modeOf v.code ≠ .vsramWr) : dataPut c d v = v := by
  unfold dataPut
  cases h : modeOf v.code with
  | vramWr => exact absurd h hvram
  | cramWr => exact absurd h hcram
  | vsramWr => exact absurd h hvsram
  | vramRd | vsramRd | cramRd | invalid => rfl

theorem dataPut_vramWr_only (h : modeOf v.code = .vramWr) : dataPut c d v =
    { v with vram := (dataPut c d v).vram, dirtyVram := (dataPut c d v).dirtyVram, dirtySprite := true } := by
  rw [dataPut_vramWr c d h, vramPut_eq, vramPut_eq]

theorem dataPut_cramWr_only (h : modeOf v.code = .cramWr) : dataPut c d v =
    { v with cram := (dataPut c d v).cram, dirtyCram := (dataPut c d v).dirtyCram, dirtyPalette := true } := by
  rw [dataPut_cramWr c d h, cramPut_eq]

variable (v)

/-- A data word changes the target memories and their dirty bits only. -/
theorem dataPut_only : dataPut c d v =
    { v with
      vram := (dataPut c d v).vram
      cram := (dataPut c d v).cram
      vsram := (dataPut c d v).vsram
      dirtyVram := (dataPut c d v).dirtyVram
      dirtyCram := (dataPut c d v).dirtyCram
      dirtyPalette := (dataPut c d v).dirtyPalette
      dirtySprite := (dataPut c d v).dirtySprite } := by
  unfold dataPut
  cases modeOf v.code with
  | vramWr => rw [vramPut_eq, vramPut_eq]
  | cramWr => rw [cramPut_eq]
  | vsramWr => dsimp only; split <;> rfl
  | vramRd | vsramRd | cramRd | invalid => rfl

@[simp] theorem dataPut_addr : (dataPut c d v).addr = v.addr := by rw [dataPut_only]
@[simp] theorem dataPut_code : (dataPut c d v).code = v.code := by rw [dataPut_only]
@[simp] theorem dataPut_vr : (dataPut c d v).vr = v.vr := by rw [dataPut_only]
@[simp] theorem dataPut_fillArmed : (dataPut c d v).fillArmed = v.fillArmed := by rw [dataPut_only]

/-! A data unit, and a data word with no fill armed. -/

@[simp] theorem dataUnit_code : (dataUnit c d v).code = v.code := dataPut_code c d v
@[simp] theorem dataUnit_vr : (dataUnit c d v).vr = v.vr := dataPut_vr c d v
@[simp] theorem dataUnit_fillArmed : (dataUnit c d v).fillArmed = v.fillArmed := dataPut_fillArmed c d v

/-- The address moves by VR[15] in every mode (R336). -/
theorem dataUnit_addr : (dataUnit c d v).addr = v.addr + (vreg v 15).setWidth 16 := by
  simp only [dataUnit, autoInc, dataPut_addr, vreg, dataPut_vr]

/-- A unit is its target's change with the address moved. -/
theorem dataUnit_eq : dataUnit c d v = { dataPut c d v with addr := v.addr + (vreg v 15).setWidth 16 } := by
  simp only [dataUnit, autoInc, dataPut_addr, vreg, dataPut_vr]

variable {v}

theorem vdpDataWrite16_unarmed (h : v.fillArmed = false) :
    vdpDataWrite16 c d v = dataUnit c d { v with pend := false } := by
  refine if_neg ?_
  rw [dataUnit_fillArmed]
  exact Bool.eq_false_iff.mp h

end

/-- Changing the low bit of an index leaves it in its pair, so in a memory of even size and in its 256-byte region. -/
theorem xor_one_pair (A : Nat) : A ^^^ 1 ≠ A ∧ (A ^^^ 1) / 2 = A / 2 := by
  constructor
  · intro same
    have cancelled : A ^^^ (A ^^^ 1) = A ^^^ A := congrArg (A ^^^ ·) same
    rw [← Nat.xor_assoc, Nat.xor_self, Nat.zero_xor] at cancelled
    exact absurd cancelled Nat.one_ne_zero
  · rw [Nat.xor_div_two]
    exact Nat.xor_zero _

/-- The size of video RAM is even (00_scope.md R18). -/
theorem Cfg.vramSize_mod_two {c : Cfg} (h : c.wf = true) : c.vramSize % 2 = 0 := by
  simp only [Cfg.wf, Cfg.sizesWf, Bool.and_eq_true, decide_eq_true_eq] at h
  obtain ⟨-, ⟨⟨⟨-, hsize, -⟩, -⟩, -⟩, -⟩ := h
  omega

/-! The two bytes of a word in VRAM: at the address, and at the address with its low bit changed. -/

section
variable {c : Cfg} (hc : c.wf = true) (d : Half) {v : Vdp} (h : modeOf v.code = .vramWr)
include hc h

theorem get_dataPut_vramWr (hwf : Memory.wf 0 v.vram) (k : Nat) : Memory.get 0 (dataPut c d v).vram k =
    if k = vramIx c v ∧ vramIx c v < c.vramSize then hiByte d
    else if k = vramIx c v ^^^ 1 ∧ vramIx c v < c.vramSize then loByte d else Memory.get 0 v.vram k := by
  have hsize := Cfg.vramSize_mod_two hc
  have hpair := xor_one_pair (vramIx c v)
  rw [dataPut_vramWr c d h, get_vramPut _ (wf_vramPut _ hwf), get_vramPut _ hwf]
  grind

theorem get_dataPut_vramWr_dirty (hwf : Memory.wf false v.dirtyVram) (k : Nat) :
    Memory.get false (dataPut c d v).dirtyVram k =
      if k = vramIx c v / 256 ∧ vramIx c v < c.vramSize then true else Memory.get false v.dirtyVram k := by
  have hsize := Cfg.vramSize_mod_two hc
  have hpair := xor_one_pair (vramIx c v)
  rw [dataPut_vramWr c d h, get_vramPut_dirty _ (wf_vramPut_dirty _ hwf), get_vramPut_dirty _ hwf]
  grind

end

/-- Settles O35: by the mode, from the unit that the word is while no fill is armed. -/
theorem dataWordLandsByMode : Obligations.DataWordLandsByMode := by
  intro s x a d hready htables harmed hwin hlt i hi v A e mode
  obtain ⟨-, hvram, hcram, hvsram, hdirtyVram, hdirtyCram, -, -⟩ := htables
  let u := { s.vdp with pend := false }
  have unit : exec i s = .next (reply .none (setVdp s
      { dataPut s.cfg d u with addr := u.addr + (vreg u 15).setWidth 16 })) := by
    rw [← dataUnit_eq, ← vdpDataWrite16_unarmed s.cfg d harmed]
    exact exec_dataWord hready d (hi.imp_right fun hi => ⟨x, a, hwin, hlt, hi⟩)
  refine ⟨fun hm => ?_, fun hm => ?_, fun hm he => ?_, fun hm he => ?_, fun hm => ?_⟩
  · have hmode : modeOf u.code = .vramWr := (modeOf_vramWr _).mpr hm
    rw [unit, dataPut_vramWr_only _ _ hmode]
    exact ⟨_, _, rfl, get_dataPut_vramWr hready.1 d hmode hvram.1,
      get_dataPut_vramWr_dirty hready.1 d hmode hdirtyVram.1⟩
  · have hmode : modeOf u.code = .cramWr := (modeOf_cramWr _).mpr hm
    rw [unit, dataPut_cramWr_only _ _ hmode, dataPut_cramWr _ _ hmode]
    exact ⟨_, _, rfl, get_cramPut _ _ hcram.1, get_cramPut_dirty _ _ hdirtyCram.1⟩
  · have hmode : modeOf u.code = .vsramWr := (modeOf_vsramWr _).mpr hm
    rw [unit, dataPut_vsramWr _ _ hmode he]
    exact ⟨_, rfl, fun k => Memory.get_put _ _ hvsram.1 _ k d⟩
  · have hmode : modeOf u.code = .vsramWr := (modeOf_vsramWr _).mpr hm
    rw [unit, dataPut_vsramWr_beyond _ _ hmode (Nat.not_lt.mpr he)]
    rfl
  · simp only [List.mem_cons, List.not_mem_nil, or_false, not_or] at hm
    obtain ⟨hv, hc, hs⟩ := hm
    rw [unit, dataPut_noTarget (v := u) _ _ (mt (modeOf_vramWr _).mp hv) (mt (modeOf_cramWr _).mp hc)
      (mt (modeOf_vsramWr _).mp hs)]
    rfl

/-! What a data-port read returns (R338). -/

section
variable {c : Cfg} {v : Vdp}

/-- The two bytes of the pair the address lies in, in a memory of even size. -/
theorem dataGet_vramRd (h : modeOf v.code = .vramRd) (hc : c.wf = true) (hpos : 0 < c.vramSize) :
    dataGet c v = Memory.get 0 v.vram (vramIx c v - vramIx c v % 2) ++
      Memory.get 0 v.vram (vramIx c v - vramIx c v % 2 + 1) := by
  have hsize := Cfg.vramSize_mod_two hc
  have hlt : vramIx c v < c.vramSize := Nat.mod_lt _ hpos
  have heven : vramIx c v - vramIx c v % 2 = vramIx c v / 2 * 2 := by omega
  simp only [dataGet, h, heven]
  rw [vramGet_of_lt (by omega), vramGet_of_lt (by omega)]
  rfl

theorem dataGet_cramRd (h : modeOf v.code = .cramRd) (hpos : 0 < c.cramN) :
    dataGet c v = Memory.get 0 v.cram (entryIx v % c.cramN) := by
  simp only [dataGet, h]
  exact cramGet_of_lt (Nat.mod_lt _ hpos) v

theorem dataGet_vsramRd (h : modeOf v.code = .vsramRd) :
    dataGet c v = if entryIx v < c.vsramN then Memory.get 0 v.vsram (entryIx v) else 0 := by
  simp only [dataGet, h]

theorem dataGet_noSource (hvram : modeOf v.code ≠ .vramRd) (hcram : modeOf v.code ≠ .cramRd)
    (hvsram : modeOf v.code ≠ .vsramRd) : dataGet c v = 0 := by
  unfold dataGet
  cases h : modeOf v.code with
  | vramRd => exact absurd h hvram
  | cramRd => exact absurd h hcram
  | vsramRd => exact absurd h hvsram
  | vramWr | cramWr | vsramWr | invalid => rfl

end

/-- Settles O36: one word, by word or one lane of it by byte, and the word by the mode. -/
theorem dataReadByMode : Obligations.DataReadByMode := by
  intro s x a hready hwin hlt v A e mode
  let u := { s.vdp with pend := false }
  refine ⟨dataGet s.cfg u, fun i hi => exec_dataRead16 hready x hwin hlt hi,
    fun i hi => exec_dataRead8 hready x hwin hlt hi, fun hm hpos => ?_, fun hm hpos => ?_, fun hm => ?_, fun hm => ?_⟩
  · exact dataGet_vramRd (v := u) ((modeOf_vramRd _).mpr hm) hready.1 hpos
  · exact dataGet_cramRd (v := u) ((modeOf_cramRd _).mpr hm) hpos
  · exact dataGet_vsramRd (v := u) ((modeOf_vsramRd _).mpr hm)
  · simp only [List.mem_cons, List.not_mem_nil, or_false, not_or] at hm
    obtain ⟨hvram, hcram, hvsram⟩ := hm
    exact dataGet_noSource (v := u) (mt (modeOf_vramRd _).mp hvram) (mt (modeOf_cramRd _).mp hcram)
      (mt (modeOf_vsramRd _).mp hvsram)

end Sys2Proof.Machine

/-! ### Starting a DMA, and an armed fill (42_vdp_ports_dma.md R334, R350). -/

namespace Sys2Proof.Machine

/-! The rows of the DMA in a ready state (log 13). -/

section
variable {s : State} (h : s.ready)
include h

theorem exec_dmaBus (hi : BitVec 7) : exec (.dmaBus hi) s = .next (reply .none (dmaBus hi s)) :=
  guarded_ready h fun y => reply .none (dmaBus hi y)

theorem exec_dmaFill (z : BitVec 6) (b : Byte) :
    exec (.dmaFill z b) s = .next (reply .none (setVdp s (dmaFill s.cfg b s.vdp))) :=
  guarded_ready h fun y => reply .none (setVdp y (dmaFill y.cfg b y.vdp))

theorem exec_dmaCopy (z : BitVec 6) :
    exec (.dmaCopy z) s = .next (reply .none (setVdp s (dmaCopy s.cfg s.vdp))) :=
  guarded_ready h fun y => reply .none (setVdp y (dmaCopy y.cfg y.vdp))

theorem exec_dmastart : exec .dmastart s = .next (reply .none (dmaStart s)) :=
  guarded_ready h fun y => reply .none (dmaStart y)

end

/-! What VR[23] selects (30_encoding.md R159). -/

section
variable {s : State}

theorem dmaStart_bus (h : (vreg s.vdp 23).getLsbD 7 = false) :
    dmaStart s = dmaBus (field (vreg s.vdp 23) 0 7) s := by
  simp only [dmaStart, dmaModeOf, h, Bool.false_eq_true, if_false]

theorem dmaStart_fill (h : (vreg s.vdp 23).getLsbD 7 = true) (h' : (vreg s.vdp 23).getLsbD 6 = false) :
    dmaStart s = setVdp s { s.vdp with fillArmed := true } := by
  simp only [dmaStart, dmaModeOf, h, h', Bool.false_eq_true, if_false, if_true]

theorem dmaStart_copy (h : (vreg s.vdp 23).getLsbD 7 = true) (h' : (vreg s.vdp 23).getLsbD 6 = true) :
    dmaStart s = setVdp s (dmaCopy s.cfg s.vdp) := by
  simp only [dmaStart, dmaModeOf, h, h', if_true]

end

/-- Settles O38: by the two mode bits; a command with the flag starts the DMA on the state that holds its fields. -/
theorem dmaStartsByMode : Obligations.DmaStartsByMode := by
  intro s w hready
  refine ⟨fun hbus => ?_, fun hvram hfill => ?_, fun hvram hcopy => ?_, fun hflag hen i hi => ?_⟩
  · refine ⟨_, exec_dmaBus hready _, ?_⟩
    rw [exec_dmastart hready, dmaStart_bus hbus]
  · rw [exec_dmastart hready, dmaStart_fill hvram hfill]
    rfl
  · refine ⟨_, exec_dmaCopy hready _, ?_⟩
    rw [exec_dmastart hready, dmaStart_copy hvram hcopy]
  · have command : exec i s = .next (reply .none (vdpCommand w s)) := by
      obtain rfl | rfl | rfl | rfl | rfl | rfl | rfl | rfl | rfl := hi <;> exact exec_commandRow hready (by simp)
    rw [command, vdpCommand_starts w s hflag hen]
    exact (exec_dmastart (hready.setVdp _)).symm

/-! The pending flag, an armed fill and the registers but VR[15] play no part in a data unit. -/

/-- The VDP with the two flags of its ports and its registers replaced. -/
def withControl (p f : Bool) (m : Mem) (v : Vdp) : Vdp := { v with pend := p, fillArmed := f, vr := m }

section
variable (c : Cfg) (d : Half) (p f : Bool) (m : Mem) (v : Vdp)

theorem dataPut_withControl : dataPut c d (withControl p f m v) = withControl p f m (dataPut c d v) := by
  unfold dataPut withControl
  cases modeOf v.code with
  | vramWr => simp only [vramPut_eq, vramIx]
  | cramWr => simp only [cramPut_eq, entryIx]
  | vsramWr => exact (apply_ite (withControl p f m) (entryIx v < c.vsramN) (vsramPut (entryIx v) d v) v).symm
  | vramRd | vsramRd | cramRd | invalid => rfl

variable {m v}

theorem dataUnit_withControl (h : Memory.get 0 m 15 = vreg v 15) :
    dataUnit c d (withControl p f m v) = withControl p f m (dataUnit c d v) := by
  have inc : vreg (withControl p f m v) 15 = vreg v 15 := h
  rw [dataUnit_eq, dataUnit_eq, inc, dataPut_withControl]
  rfl

/-- A data word with a fill armed (R334): the unit it is with the fill disarmed, then the fill where the target is
VRAM. -/
theorem vdpDataWrite16_armed (h : v.fillArmed = true) : vdpDataWrite16 c d v =
    if modeOf v.code = .vramWr then dmaFill c (hiByte d) (dataUnit c d (withControl false false v.vr v))
    else dataUnit c d (withControl false false v.vr v) := by
  have cleared : { v with pend := false } = withControl false true v.vr v := by rw [withControl, h]
  unfold vdpDataWrite16
  rw [cleared, dataUnit_withControl c d false true rfl, dataUnit_withControl c d false false rfl,
    ← dataUnit_code c d v]
  rfl

end

/-- Settles O40: the word is the unit it is with the fill disarmed, and the fill runs on what the unit leaves. -/
theorem armedFillRunsAfterItsWord : Obligations.ArmedFillRunsAfterItsWord := by
  intro s z d hready harmed
  let u := reply .none (setVdp s (dataUnit s.cfg d (withControl false false s.vdp.vr s.vdp)))
  have hu : u.ready := (hready.setVdp _).reply (.refl _) _
  have unit : exec (.vdataWr d) { s with vdp := { s.vdp with fillArmed := false } } = .next u := by
    have word := exec_vdataWr (hready.setVdp { s.vdp with fillArmed := false }) d
    rw [dataPortWrite16, vdpDataWrite16_unarmed _ _ rfl] at word
    exact word
  refine ⟨u, unit, fun i hi => ?_⟩
  rw [exec_dataWord hready d hi, dataPortWrite16, vdpDataWrite16_armed _ _ harmed]
  constructor
  · intro hm
    refine ⟨_, exec_dmaFill hu z (hiByte d), ?_⟩
    rw [if_pos ((modeOf_vramWr _).mpr hm)]
    rfl
  · intro hm
    rw [if_neg (mt (modeOf_vramWr _).mp hm)]

end Sys2Proof.Machine

/-! ### The registers of a DMA, and its units (42_vdp_ports_dma.md R352, R358). -/

namespace Sys2Proof.Machine

/-- Tables in canonical form that read the same at every index are the same. -/
theorem Memory.eq_of_get {α : Type} {d : α} {m m' : Sparse α} (hm : wf d m) (hm' : wf d m')
    (h : ∀ k, get d m k = get d m' k) : m = m' := by
  induction m generalizing m' with
  | nil =>
    cases m' with
    | nil => rfl
    | cons y r' =>
      have first : d = y.2 := (h y.1).trans (if_pos rfl)
      exact absurd first.symm (hm'.2 y List.mem_cons_self)
  | cons x r ih =>
    obtain ⟨hlt, hr⟩ := List.pairwise_cons.mp hm.1
    cases m' with
    | nil =>
      have first : x.2 = d := (if_pos rfl).symm.trans (h x.1)
      exact absurd first (hm.2 x List.mem_cons_self)
    | cons y r' =>
      obtain ⟨hlt', hr'⟩ := List.pairwise_cons.mp hm'.1
      have below : ∀ k, k ≤ x.1 → get d r k = d := fun k hk =>
        get_of_lt d r k fun c hc => Nat.lt_of_le_of_lt hk (hlt c hc)
      have below' : ∀ k, k ≤ y.1 → get d r' k = d := fun k hk =>
        get_of_lt d r' k fun c hc => Nat.lt_of_le_of_lt hk (hlt' c hc)
      have hx : x.2 ≠ d := hm.2 x List.mem_cons_self
      have hy : y.2 ≠ d := hm'.2 y List.mem_cons_self
      have read : ∀ k, (if k = x.1 then x.2 else get d r k) = if k = y.1 then y.2 else get d r' k := h
      have index : x.1 = y.1 := by
        have := read x.1
        have := read y.1
        grind
      have value : x.2 = y.2 := by simpa [index] using read y.1
      have rest : r = r' := by
        refine ih ⟨hr, fun c hc => hm.2 c (List.mem_cons_of_mem _ hc)⟩
          ⟨hr', fun c hc => hm'.2 c (List.mem_cons_of_mem _ hc)⟩ fun k => ?_
        by_cases hk : k = y.1
        · rw [below k (by omega), below' k (by omega)]
        · simpa [index, hk] using read k
      rw [rest, Prod.ext index value]

/-! The length and the source. -/

theorem toNat_append_byte (x y : Byte) : (x ++ y).toNat = x.toNat * 256 + y.toNat := by
  rw [BitVec.toNat_append, ← Nat.shiftLeft_add_eq_or_of_lt y.isLt, Nat.shiftLeft_eq]

theorem dmaLen_eq (v : Vdp) : dmaLen v = if vreg v 19 = 0 ∧ vreg v 20 = 0 then 0x10000
    else (vreg v 20).toNat * 256 + (vreg v 19).toNat := by
  have hz : ∀ b : Byte, b = 0 ↔ b.toNat = 0 := fun b => BitVec.toNat_inj.symm
  simp only [dmaLen, toNat_append_byte, hz]
  split <;> split <;> omega

theorem dmaLen_bounds (v : Vdp) : 1 ≤ dmaLen v ∧ dmaLen v ≤ 0x10000 := by
  have hlt := (vreg v 20 ++ vreg v 19).isLt
  simp only [dmaLen]
  split <;> omega

/-- A word is its two bytes. -/
theorem hiByte_append_loByte (w : Half) : hiByte w ++ loByte w = w :=
  BitVec.eq_of_getLsbD_eq fun i hi => by
    rw [BitVec.getLsbD_append]
    split
    · next low => simp [loByte, field, low]
    · next high => simp [hiByte, field, show i - 8 < 8 by omega, show 8 + (i - 8) = i by omega]

/-- Registers with another DMA length. -/
def lenRegs (n : Half) (r : Mem) : Mem := Memory.put 0 (Memory.put 0 r 19 (loByte n)) 20 (hiByte n)

/-- The registers a bus transfer or a copy leaves, with the source counter `lo` (R358). -/
def endRegs (lo : Half) (r : Mem) : Mem :=
  Memory.put 0 (Memory.put 0 (Memory.put 0 (Memory.put 0 r 19 0) 20 0) 21 (loByte lo)) 22 (hiByte lo)

section
variable {r : Mem} (h : Memory.wf 0 r)
include h

theorem wf_lenRegs (n : Half) : Memory.wf 0 (lenRegs n r) :=
  Memory.wf_put _ _ (Memory.wf_put _ _ h _ _) _ _

theorem wf_endRegs (lo : Half) : Memory.wf 0 (endRegs lo r) :=
  Memory.wf_put _ _ (Memory.wf_put _ _ (wf_lenRegs h 0) _ _) _ _

theorem get_lenRegs (n : Half) (k : Nat) : Memory.get 0 (lenRegs n r) k =
    if k = 20 then hiByte n else if k = 19 then loByte n else Memory.get 0 r k := by
  rw [lenRegs, Memory.get_put _ _ (Memory.wf_put _ _ h _ _), Memory.get_put _ _ h]

theorem get_endRegs (lo : Half) (k : Nat) : Memory.get 0 (endRegs lo r) k =
    if k = 19 ∨ k = 20 then 0 else if k = 21 then loByte lo else if k = 22 then hiByte lo
    else Memory.get 0 r k := by
  have h19 := Memory.wf_put 0 _ h 19 0
  have h20 := Memory.wf_put 0 _ h19 20 0
  have h21 := Memory.wf_put 0 _ h20 21 (loByte lo)
  rw [endRegs, Memory.get_put _ _ h21, Memory.get_put _ _ h20, Memory.get_put _ _ h19, Memory.get_put _ _ h]
  grind

/-- The registers a DMA leaves are the same when it is made in two parts. -/
theorem endRegs_resume (n n' lo lo' : Half) :
    endRegs lo (lenRegs n (endRegs lo' (lenRegs n' r))) = endRegs lo r := by
  have h1 := wf_lenRegs h n'
  have h2 := wf_endRegs h1 lo'
  have h3 := wf_lenRegs h2 n
  refine Memory.eq_of_get (wf_endRegs h3 lo) (wf_endRegs h lo) fun k => ?_
  rw [get_endRegs h3, get_endRegs h, get_lenRegs h2, get_endRegs h1, get_lenRegs h]
  grind

end

/-- State with other VDP registers. -/
def setRegs (r : Mem) (s : State) : State := setVdp s { s.vdp with vr := r }

/-- State with another DMA length. -/
def setDmaLen (n : Half) (s : State) : State := setRegs (lenRegs n s.vdp.vr) s

section
variable {s : State} (h : Memory.wf 0 s.vdp.vr)
include h

theorem dmaLen_setDmaLen (n : Half) : dmaLen (setDmaLen n s).vdp = if n = 0 then 0x10000 else n.toNat := by
  have regs : vreg (setDmaLen n s).vdp 20 ++ vreg (setDmaLen n s).vdp 19 = n := by
    have hi : vreg (setDmaLen n s).vdp 20 = hiByte n := get_lenRegs h n 20
    have lo : vreg (setDmaLen n s).vdp 19 = loByte n := get_lenRegs h n 19
    rw [hi, lo, hiByte_append_loByte]
  rw [dmaLen, regs]
  exact ite_congr (propext (BitVec.toNat_inj (y := 0))) (fun _ => rfl) fun _ => rfl

theorem dmaSrc_setDmaLen (n : Half) : dmaSrc (setDmaLen n s).vdp = dmaSrc s.vdp := by
  have hi : vreg (setDmaLen n s).vdp 22 = vreg s.vdp 22 := get_lenRegs h n 22
  have lo : vreg (setDmaLen n s).vdp 21 = vreg s.vdp 21 := get_lenRegs h n 21
  rw [dmaSrc, hi, lo, dmaSrc]

end

theorem dmaSrc_endRegs {r : Mem} (h : Memory.wf 0 r) (lo : Half) (s : State) :
    dmaSrc (setRegs (endRegs lo r) s).vdp = lo := by
  have hi : vreg (setRegs (endRegs lo r) s).vdp 22 = hiByte lo := get_endRegs h lo 22
  have low : vreg (setRegs (endRegs lo r) s).vdp 21 = loByte lo := get_endRegs h lo 21
  rw [dmaSrc, hi, low]
  exact hiByte_append_loByte lo

/-! The units of a transfer or a copy: one operation on the state, made with rising source addresses. -/

/-- `n` units from source address `lo` on. -/
def units (U : Half → State → State) : Nat → Half → State → State
  | 0, _, s => s
  | n + 1, lo, s => units U n (lo + 1) (U lo s)

theorem add_one_add_ofNat (lo : Half) (n : Nat) : lo + 1 + BitVec.ofNat 16 n = lo + BitVec.ofNat 16 (n + 1) := by
  rw [BitVec.add_assoc, Nat.add_comm n 1, BitVec.ofNat_add]
  rfl

/-- A DMA of the units `U` with the registers it leaves (R352, R358). -/
def dmaRun (U : Half → State → State) (s : State) : State :=
  let t := units U (dmaLen s.vdp) (dmaSrc s.vdp) s
  setRegs (endRegs (dmaSrc s.vdp + BitVec.ofNat 16 (dmaLen s.vdp)) t.vdp.vr) t

/-- What makes an operation a DMA's unit: it writes no register, reads neither the response nor any register but
VR[15], and leaves a ready machine ready. -/
structure IsUnit (U : Half → State → State) : Prop where
  ready : ∀ lo s, s.ready → (U lo s).ready
  vr : ∀ lo s, (U lo s).vdp.vr = s.vdp.vr
  reply : ∀ r lo s, U lo (reply r s) = reply r (U lo s)
  setRegs : ∀ m lo s, Memory.get 0 m 15 = vreg s.vdp 15 → U lo (setRegs m s) = setRegs m (U lo s)

section
variable (U : Half → State → State)

theorem units_concat (n : Nat) (lo : Half) (s : State) :
    units U (n + 1) lo s = U (lo + BitVec.ofNat 16 n) (units U n lo s) := by
  induction n generalizing lo s with
  | zero => simp only [units, BitVec.add_zero]
  | succ n ih => rw [units, ih, add_one_add_ofNat, units]

variable {U} (hU : IsUnit U)
include hU

theorem units_vr (n : Nat) (lo : Half) (s : State) : (units U n lo s).vdp.vr = s.vdp.vr := by
  induction n generalizing lo s with
  | zero => rfl
  | succ n ih => exact (ih _ _).trans (hU.vr lo s)

theorem units_inc (n : Nat) (lo : Half) (s : State) : vreg (units U n lo s).vdp 15 = vreg s.vdp 15 :=
  congrArg (Memory.get 0 · 15) (units_vr hU n lo s)

theorem units_ready (n : Nat) (lo : Half) {s : State} (h : s.ready) : (units U n lo s).ready := by
  induction n generalizing lo s with
  | zero => exact h
  | succ n ih => exact ih _ (hU.ready lo s h)

theorem units_reply (n : Nat) (r : Resp) (lo : Half) (s : State) :
    units U n lo (reply r s) = reply r (units U n lo s) := by
  induction n generalizing lo s with
  | zero => rfl
  | succ n ih => rw [units, hU.reply, ih, units]

theorem units_setRegs (n : Nat) (m : Mem) (lo : Half) (s : State) (hm : Memory.get 0 m 15 = vreg s.vdp 15) :
    units U n lo (setRegs m s) = setRegs m (units U n lo s) := by
  induction n generalizing lo s with
  | zero => rfl
  | succ n ih =>
    have hm' : Memory.get 0 m 15 = vreg (U lo s).vdp 15 := by rw [vreg, hU.vr]; exact hm
    rw [units, hU.setRegs m lo s hm, ih _ _ hm', units]

theorem dmaRun_reply (r : Resp) (s : State) : dmaRun U (reply r s) = reply r (dmaRun U s) := by
  simp only [dmaRun, reply_vdp, units_reply hU]
  rfl

theorem dmaRun_eq (s : State) : dmaRun U s =
    setRegs (endRegs (dmaSrc s.vdp + BitVec.ofNat 16 (dmaLen s.vdp)) s.vdp.vr)
      (units U (dmaLen s.vdp) (dmaSrc s.vdp) s) := by
  simp only [dmaRun, units_vr hU]

/-- A DMA whose length and source are `n` and `lo`, from a state with other registers. -/
theorem dmaRun_setRegs {m : Mem} {n : Nat} {lo : Half} {s : State} (hm : Memory.get 0 m 15 = vreg s.vdp 15)
    (hn : dmaLen (setRegs m s).vdp = n) (hlo : dmaSrc (setRegs m s).vdp = lo) :
    dmaRun U (setRegs m s) = setRegs (endRegs (lo + BitVec.ofNat 16 n) m) (units U n lo s) := by
  rw [dmaRun_eq hU, hn, hlo, units_setRegs hU n m lo s hm]
  rfl

/-- One unit, then a DMA of the rest, is the whole DMA. -/
theorem dmaRun_resume {s : State} (h : Memory.wf 0 s.vdp.vr) (hn : 1 < dmaLen s.vdp) :
    dmaRun U (setDmaLen (BitVec.ofNat 16 (dmaLen s.vdp - 1)) (dmaRun U (setDmaLen 1 s))) = dmaRun U s := by
  obtain ⟨k, hk⟩ : ∃ k, dmaLen s.vdp = k + 1 := ⟨dmaLen s.vdp - 1, by omega⟩
  have hmax := (dmaLen_bounds s.vdp).2
  rw [hk] at hn hmax
  let src := dmaSrc s.vdp
  let mid := endRegs (src + 1) (lenRegs 1 s.vdp.vr)
  have hlen1 := wf_lenRegs h 1
  have hmid : Memory.wf 0 mid := wf_endRegs hlen1 (src + 1)
  have first : dmaRun U (setDmaLen 1 s) = setRegs mid (U src s) :=
    dmaRun_setRegs hU (get_lenRegs h 1 15) (dmaLen_setDmaLen h 1) (dmaSrc_setDmaLen h 1)
  have inc : Memory.get 0 (lenRegs (BitVec.ofNat 16 k) mid) 15 = vreg (U src s).vdp 15 := by
    rw [get_lenRegs hmid, vreg, hU.vr]
    exact (get_endRegs hlen1 _ 15).trans (get_lenRegs h 1 15)
  have len : dmaLen (setDmaLen (BitVec.ofNat 16 k) (setRegs mid (U src s))).vdp = k := by
    have small : (BitVec.ofNat 16 k).toNat = k := Nat.mod_eq_of_lt (by omega)
    rw [dmaLen_setDmaLen hmid, small, if_neg fun e => by simp [e] at small; omega]
  have rest : dmaRun U (setDmaLen (BitVec.ofNat 16 k) (setRegs mid (U src s))) =
      setRegs (endRegs (src + 1 + BitVec.ofNat 16 k) (lenRegs (BitVec.ofNat 16 k) mid))
        (units U k (src + 1) (U src s)) :=
    dmaRun_setRegs hU inc len
      ((dmaSrc_setDmaLen (s := setRegs mid (U src s)) hmid _).trans (dmaSrc_endRegs hlen1 _ _))
  rw [first, hk, Nat.add_sub_cancel, rest, endRegs_resume h, add_one_add_ofNat, dmaRun_eq hU, hk]
  rfl

/-- A row that is a DMA of the units `U` can be made in two parts: one unit, then the rest. -/
theorem exec_resume {i : Instr} (hi : ∀ t : State, t.ready → exec i t = .next (reply .none (dmaRun U t)))
    {s : State} (hs : s.ready) (h : Memory.wf 0 s.vdp.vr) (hn : 1 < dmaLen s.vdp) :
    ∃ u, exec i (setDmaLen 1 s) = .next u ∧
      exec i (setDmaLen (BitVec.ofNat 16 (dmaLen s.vdp - 1)) u) = exec i s := by
  have hone : (setDmaLen 1 s).ready := hs.setVdp _
  have hrun : (dmaRun U (setDmaLen 1 s)).ready := (units_ready hU _ _ hone).setVdp _
  refine ⟨_, hi _ hone, ?_⟩
  have rest := hi (reply .none (setDmaLen (BitVec.ofNat 16 (dmaLen s.vdp - 1)) (dmaRun U (setDmaLen 1 s))))
    ((hrun.setVdp _).reply (.refl _) _)
  rw [dmaRun_reply hU, reply_reply, dmaRun_resume hU h hn, ← hi s hs] at rest
  exact rest

end

end Sys2Proof.Machine

/-! ### DMA inside video RAM: fills and copies (42_vdp_ports_dma.md R356, R357). Both put one byte a unit at the place
the address selects; what differs is which place, and which byte. -/

namespace Sys2Proof.Machine

/-! Writes one after another: `g j k` is what index `k` reads as after the first `j`, of which each is made at `a j`
where `P j` holds. -/

section
variable {α : Type} {g : Nat → Nat → α} {a : Nat → Nat} {P : Nat → Prop} [DecidablePred P] {y : Nat → α}
  (hg : ∀ j k, g (j + 1) k = if k = a j ∧ P j then y j else g j k)
include hg

/-- An index that no write is made at keeps its value. -/
theorem writes_other {n k : Nat} (hk : ∀ j, j < n → P j → k ≠ a j) : g n k = g 0 k := by
  induction n with
  | zero => rfl
  | succ n ih =>
    rw [hg, if_neg fun e => hk n (Nat.lt_succ_self n) e.2 e.1]
    exact ih fun j hj => hk j (Nat.lt_succ_of_lt hj)

/-- Values that are all the same stand wherever one was written. -/
theorem writes_const {b : α} (hy : ∀ j, y j = b) {n j : Nat} (hj : j < n) (hP : P j) : g n (a j) = b := by
  induction n with
  | zero => exact absurd hj (Nat.not_lt_zero j)
  | succ n ih =>
    rw [hg, hy]
    split
    · rfl
    · next other =>
      have hne : j ≠ n := fun e => other ⟨by rw [e], e ▸ hP⟩
      exact ih (by omega)

end

/-- The address after `j` auto-increments (R336). -/
theorem addr_autoInc (a : Half) (inc : Byte) (j : Nat) : a + BitVec.ofNat 16 (j * inc.toNat) + inc.setWidth 16 =
    a + BitVec.ofNat 16 ((j + 1) * inc.toNat) := by
  rw [BitVec.add_assoc, Nat.succ_mul, BitVec.ofNat_add, BitVec.ofNat_toNat]

/-- `f j` is the VDP after `j` bytes `x` were put at the indices `A`, one after another from `f 0` on. -/
def PutsBytes (c : Cfg) (A : Nat → Nat) (x : Nat → Byte) (f : Nat → Vdp) : Prop :=
  ∀ j, f (j + 1) = autoInc (vramPut c (A j) (x j) (f j))

section
variable {c : Cfg} {A : Nat → Nat} {x : Nat → Byte} {f : Nat → Vdp} (hf : PutsBytes c A x f)
include hf

/-- Only video RAM, its dirty bits and the address change. -/
theorem PutsBytes.only (n : Nat) : f n =
    { f 0 with
      vram := (f n).vram
      dirtyVram := (f n).dirtyVram
      dirtySprite := (f n).dirtySprite
      addr := (f 0).addr + BitVec.ofNat 16 (n * (vreg (f 0) 15).toNat) } := by
  have shape : ∃ m g d, f n = { f 0 with
      vram := m, dirtyVram := g, dirtySprite := d,
      addr := (f 0).addr + BitVec.ofNat 16 (n * (vreg (f 0) 15).toNat) } := by
    induction n with
    | zero => exact ⟨(f 0).vram, (f 0).dirtyVram, (f 0).dirtySprite, by simp⟩
    | succ n ih =>
      obtain ⟨m, g, d, ih⟩ := ih
      rw [hf n, vramPut_eq, ih, ← addr_autoInc]
      exact ⟨_, _, _, rfl⟩
  obtain ⟨m, g, d, shape⟩ := shape
  rw [shape]

theorem PutsBytes.vr (n : Nat) : (f n).vr = (f 0).vr := by rw [hf.only n]

theorem PutsBytes.addr (n : Nat) : (f n).addr = (f 0).addr + BitVec.ofNat 16 (n * (vreg (f 0) 15).toNat) := by
  rw [hf.only n]

theorem PutsBytes.dirtySprite (n : Nat) : (f (n + 1)).dirtySprite = true := by
  rw [hf n, vramPut_eq]
  rfl

/-- What at least one put leaves. -/
theorem PutsBytes.of_pos {n : Nat} (hn : 0 < n) : f n =
    { f 0 with
      vram := (f n).vram
      dirtyVram := (f n).dirtyVram
      dirtySprite := true
      addr := (f 0).addr + BitVec.ofNat 16 (n * (vreg (f 0) 15).toNat) } := by
  obtain ⟨k, rfl⟩ := Nat.exists_eq_succ_of_ne_zero (Nat.ne_of_gt hn)
  rw [← hf.dirtySprite k]
  exact hf.only _

theorem PutsBytes.wf (h : Memory.wf 0 (f 0).vram) (n : Nat) : Memory.wf 0 (f n).vram := by
  induction n with
  | zero => exact h
  | succ n ih => rw [hf n]; exact wf_vramPut _ ih

theorem PutsBytes.wf_dirty (h : Memory.wf false (f 0).dirtyVram) (n : Nat) : Memory.wf false (f n).dirtyVram := by
  induction n with
  | zero => exact h
  | succ n ih => rw [hf n]; exact wf_vramPut_dirty _ ih

theorem PutsBytes.get_succ (h : Memory.wf 0 (f 0).vram) (n k : Nat) : Memory.get 0 (f (n + 1)).vram k =
    if k = A n ∧ A n < c.vramSize then x n else Memory.get 0 (f n).vram k := by
  rw [hf n]
  exact get_vramPut _ (hf.wf h n) k

theorem PutsBytes.dirty_succ (h : Memory.wf false (f 0).dirtyVram) (n k : Nat) :
    Memory.get false (f (n + 1)).dirtyVram k =
      if k = A n / 256 ∧ A n < c.vramSize then true else Memory.get false (f n).dirtyVram k := by
  rw [hf n]
  exact get_vramPut_dirty _ (hf.wf_dirty h n) k

/-- A byte no unit puts stays. -/
theorem PutsBytes.get_other (h : Memory.wf 0 (f 0).vram) {n k : Nat}
    (hk : ∀ j, j < n → A j < c.vramSize → k ≠ A j) : Memory.get 0 (f n).vram k = Memory.get 0 (f 0).vram k :=
  writes_other (g := fun j => Memory.get 0 (f j).vram) (hf.get_succ h) hk

/-- Bytes that are all the same stand wherever one was put. -/
theorem PutsBytes.get_const (h : Memory.wf 0 (f 0).vram) {b : Byte} (hx : ∀ j, x j = b) {n j : Nat} (hj : j < n)
    (hlt : A j < c.vramSize) : Memory.get 0 (f n).vram (A j) = b :=
  writes_const (g := fun j => Memory.get 0 (f j).vram) (hf.get_succ h) hx hj hlt

/-- The region of a byte that was put is marked changed (R340). -/
theorem PutsBytes.dirty_put (h : Memory.wf false (f 0).dirtyVram) {n j : Nat} (hj : j < n)
    (hlt : A j < c.vramSize) : Memory.get false (f n).dirtyVram (A j / 256) = true :=
  writes_const (g := fun j => Memory.get false (f j).dirtyVram) (hf.dirty_succ h) (fun _ => rfl) hj hlt

/-- No other region is. -/
theorem PutsBytes.dirty_other (h : Memory.wf false (f 0).dirtyVram) {n k : Nat}
    (hk : ∀ j, j < n → A j < c.vramSize → k ≠ A j / 256) :
    Memory.get false (f n).dirtyVram k = Memory.get false (f 0).dirtyVram k :=
  writes_other (g := fun j => Memory.get false (f j).dirtyVram) (hf.dirty_succ h) hk

end

/-! The fill. -/

theorem fillLoop_concat (c : Cfg) (b : Byte) (n : Nat) (v : Vdp) : fillLoop c b (n + 1) v =
    autoInc (vramPut c (((fillLoop c b n v).addr ^^^ 1).toNat % c.vramSize) b (fillLoop c b n v)) := by
  induction n generalizing v with
  | zero => rfl
  | succ n ih => rw [fillLoop, ih, fillLoop]

/-- The place of unit `j` of a fill: the address it stands at with the low bit changed (R356). -/
def fillAt (c : Cfg) (v : Vdp) (j : Nat) : Nat :=
  ((v.addr + BitVec.ofNat 16 (j * (vreg v 15).toNat)) ^^^ 1).toNat % c.vramSize

theorem putsBytes_fill (c : Cfg) (b : Byte) (v : Vdp) :
    PutsBytes c (fillAt c v) (fun _ => b) (fun j => fillLoop c b j v) := by
  have hf : PutsBytes c (fun j => ((fillLoop c b j v).addr ^^^ 1).toNat % c.vramSize) (fun _ => b)
      (fun j => fillLoop c b j v) := fun j => fillLoop_concat c b j v
  intro j
  have addr : (fillLoop c b j v).addr = v.addr + BitVec.ofNat 16 (j * (vreg v 15).toNat) := hf.addr j
  rw [fillAt, ← addr]
  exact hf j

/-- Settles O39: the fill is a run of puts of one byte, then the length is cleared. -/
theorem dmaFillsItsAddresses : Obligations.DmaFillsItsAddresses := by
  intro s z b hready htables n at_
  obtain ⟨hvr, hvram, -, -, hdirty, -, -, -⟩ := htables
  have hf := putsBytes_fill s.cfg b s.vdp
  have hn : dmaLen s.vdp = n := dmaLen_eq s.vdp
  have hpos : 0 < n := hn ▸ (dmaLen_bounds s.vdp).1
  have filled := hf.of_pos hpos
  have run : dmaFill s.cfg b s.vdp =
      { fillLoop s.cfg b n s.vdp with vr := lenRegs 0 (fillLoop s.cfg b n s.vdp).vr } := by
    rw [← hn]
    rfl
  refine ⟨(fillLoop s.cfg b n s.vdp).vram, lenRegs 0 s.vdp.vr, (fillLoop s.cfg b n s.vdp).dirtyVram, ?_, ?_, ?_,
    fun k hk => hf.dirty_other hdirty.1 hk, fun k => ?_⟩
  · rw [exec_dmaFill hready, run, hf.vr n, filled]
    rfl
  · rintro k hk ⟨j, hj, rfl⟩
    exact ⟨hf.get_const hvram.1 (fun _ => rfl) hj hk, hf.dirty_put hdirty.1 hj hk⟩
  · intro k hk
    refine hf.get_other hvram.1 fun j hj hlt e => ?_
    obtain hout | hne := hk
    · exact absurd (e ▸ hlt) (Nat.not_lt.mpr hout)
    · exact hne j hj e
  · rw [get_lenRegs hvr.1, show loByte 0 = 0 from rfl, show hiByte 0 = 0 from rfl]
    grind [vreg]

/-! The copy. -/

/-- A unit of a copy, from source address `lo` (R357). -/
def copyUnit (lo : Half) (s : State) : State :=
  setVdp s (autoInc (vramPut s.cfg (vramIx s.cfg s.vdp) (vramGet s.cfg s.vdp (lo.toNat % s.cfg.vramSize)) s.vdp))

theorem isUnit_copy : IsUnit copyUnit where
  ready _ _ h := h
  vr lo s := by
    rw [copyUnit, vramPut_eq]
    rfl
  reply _ _ _ := rfl
  setRegs m lo s hm := by
    simp only [copyUnit, setRegs, setVdp_vdp, setVdp_cfg, vramPut_eq, autoInc, vreg, vramIx, vramGet] at hm ⊢
    rw [hm]
    rfl

/-- The units of a copy are its loop (R357). -/
theorem units_copy (n : Nat) (lo : Half) (s : State) :
    units copyUnit n lo s = setVdp s (copyLoop s.cfg n lo s.vdp).2 := by
  induction n generalizing lo s with
  | zero => rfl
  | succ n ih => exact ih _ _

theorem copyLoop_src (c : Cfg) (n : Nat) (lo : Half) (v : Vdp) :
    (copyLoop c n lo v).1 = lo + BitVec.ofNat 16 n := by
  induction n generalizing lo v with
  | zero => exact (BitVec.add_zero lo).symm
  | succ n ih => rw [copyLoop, ih, add_one_add_ofNat]

theorem dmaRun_copy (s : State) : dmaRun copyUnit s = setVdp s (dmaCopy s.cfg s.vdp) := by
  simp only [dmaRun, units_copy, dmaCopy, copyLoop_src]
  rfl

theorem exec_dmaCopy_eq_dmaRun (z : BitVec 6) {s : State} (h : s.ready) :
    exec (.dmaCopy z) s = .next (reply .none (dmaRun copyUnit s)) := by
  rw [exec_dmaCopy h, dmaRun_copy]

/-- The place the address selects in unit `j`, `j` increments on. -/
def unitAt (c : Cfg) (v : Vdp) (j : Nat) : Nat :=
  (v.addr + BitVec.ofNat 16 (j * (vreg v 15).toNat)).toNat % c.vramSize

/-- The byte a copy moves in unit `j`. -/
def copyByte (lo : Half) (s : State) (j : Nat) : Byte :=
  vramGet s.cfg (units copyUnit j lo s).vdp ((lo + BitVec.ofNat 16 j).toNat % s.cfg.vramSize)

theorem putsBytes_copy (lo : Half) (s : State) :
    PutsBytes s.cfg (unitAt s.cfg s.vdp) (copyByte lo s) (fun j => (units copyUnit j lo s).vdp) := by
  have hf : PutsBytes s.cfg (fun j => vramIx s.cfg (units copyUnit j lo s).vdp) (copyByte lo s)
      (fun j => (units copyUnit j lo s).vdp) := by
    intro j
    have cfg : (units copyUnit j lo s).cfg = s.cfg := by rw [units_copy]; rfl
    dsimp only
    rw [units_concat, copyUnit, cfg]
    rfl
  intro j
  have addr : (units copyUnit j lo s).vdp.addr = s.vdp.addr + BitVec.ofNat 16 (j * (vreg s.vdp 15).toNat) := hf.addr j
  rw [unitAt, ← addr]
  exact hf j

/-- Settles O41: the copy is a run of puts, then the length and the source are written. -/
theorem dmaCopiesWithinVram : Obligations.DmaCopiesWithinVram := by
  intro s z hready htables n src at_ length
  obtain ⟨hvr, hvram, -, -, hdirty, -, -, -⟩ := htables
  have hf := putsBytes_copy src s
  have hn : dmaLen s.vdp = n := dmaLen_eq s.vdp
  have hpos : 0 < n := hn ▸ (dmaLen_bounds s.vdp).1
  let t := units copyUnit n src s
  have copied := hf.of_pos hpos
  have run : dmaRun copyUnit s = setRegs (endRegs (src + BitVec.ofNat 16 n) s.vdp.vr) t := by
    rw [dmaRun_eq isUnit_copy, hn]
    rfl
  refine ⟨t.vdp.vram, endRegs (src + BitVec.ofNat 16 n) s.vdp.vr, t.vdp.dirtyVram, ?_, get_endRegs hvr.1 _,
    fun k hk => hf.get_other hvram.1 fun j hj _ => hk j hj, fun j hj hlt => hf.dirty_put hdirty.1 hj hlt,
    fun k hk => hf.dirty_other hdirty.1 hk, fun h1 k => ?_, fun h1 => ?_⟩
  · have only : t = setVdp s t.vdp := by
      rw [show t = _ from units_copy n src s]
      rfl
    rw [exec_dmaCopy_eq_dmaRun z hready, run, only, show t.vdp = _ from copied]
    rfl
  · have one : t = units copyUnit 1 src s := congrArg (units copyUnit · src s) h1
    rw [one]
    refine (hf.get_succ hvram.1 0 k).trans ?_
    by_cases hk : k = at_ 0 ∧ k < s.cfg.vramSize
    · obtain ⟨hat, hlt⟩ := hk
      have inside : src.toNat % s.cfg.vramSize < s.cfg.vramSize := Nat.mod_lt _ (by omega)
      have put : at_ 0 < s.cfg.vramSize := hat ▸ hlt
      rw [if_pos ⟨hat, put⟩, if_pos ⟨hat, hlt⟩, copyByte, BitVec.add_zero]
      exact vramGet_of_lt inside _
    · have other : ¬ (k = at_ 0 ∧ at_ 0 < s.cfg.vramSize) := fun ⟨hat, put⟩ => hk ⟨hat, hat ▸ put⟩
      exact (if_neg other).trans (if_neg hk).symm
  · have two := exec_resume isUnit_copy (fun _ => exec_dmaCopy_eq_dmaRun z) hready hvr.1 (hn ▸ h1)
    rw [hn] at two
    exact two

end Sys2Proof.Machine

/-! ### Transfers from the bus (42_vdp_ports_dma.md R354): a unit is a word read by the DMA and a data unit of it. -/

namespace Sys2Proof.Machine

/-! What a read of the bus can change in the VDP: a read at one of its ports drops a pending command and moves the
address (R332, R338). -/

/-- Only the pending flag and the address differ. -/
def OnlyRead (v u : Vdp) : Prop := u = { v with pend := u.pend, addr := u.addr }

theorem OnlyRead.trans {v u w : Vdp} (h : OnlyRead v u) (k : OnlyRead u w) : OnlyRead v w := by
  unfold OnlyRead at *
  rw [k, h]

theorem vdpBlockRead8_onlyRead (a : Addr) (o : BitVec 5) (s : State) : OnlyRead s.vdp (vdpBlockRead8 a o s).2.vdp := by
  unfold vdpBlockRead8
  cases vdpPort o <;> rfl

/-- A read of an I/O register changes nothing. -/
theorem ioBlockRead8_state (a : Addr) (o : BitVec 5) (s : State) : (ioBlockRead8 a o s).2 = s := by
  unfold ioBlockRead8
  split <;> rfl

theorem busRd8_onlyRead (a : Addr) (s : State) : OnlyRead s.vdp (busRd8 a s).2.vdp := by
  unfold busRd8
  cases region s.cfg s.bus a with
  | vdp o => exact vdpBlockRead8_onlyRead a o s
  | io o =>
    dsimp only
    rw [ioBlockRead8_state]
    rfl
  | rom | sram | ram | zram | fm | banksel | sramctl | unmapped => rfl

theorem splitRd16_onlyRead (a : Addr) (s : State) : OnlyRead s.vdp (splitRd16 a s).2.vdp :=
  (busRd8_onlyRead a s).trans (busRd8_onlyRead (a + 1) _)

theorem busRd16_onlyRead (a : Addr) (s : State) : OnlyRead s.vdp (busRd16 a s).2.vdp := by
  unfold busRd16
  cases region s.cfg s.bus a with
  | vdp o =>
    dsimp only
    cases vdpPort o with
    | data | ctrl => rfl
    | psg | none => exact splitRd16_onlyRead a s
  | rom | sram | ram | zram | fm | banksel | io | sramctl | unmapped => exact splitRd16_onlyRead a s

theorem OnlyRead.vr {v u : Vdp} (h : OnlyRead v u) : u.vr = v.vr := by rw [h]

/-! No read of the bus depends on a register of the VDP but VR[15]. -/

section
variable {m : Mem} {s : State}

theorem ioBlockRead8_setRegs (a : Addr) (o : BitVec 5) :
    ioBlockRead8 a o (setRegs m s) = ((ioBlockRead8 a o s).1, setRegs m (ioBlockRead8 a o s).2) := by
  unfold ioBlockRead8
  cases o.getLsbD 0 <;> rfl

variable (h : Memory.get 0 m 15 = vreg s.vdp 15)
include h

theorem dataPortRead16_setRegs :
    dataPortRead16 (setRegs m s) = ((dataPortRead16 s).1, setRegs m (dataPortRead16 s).2) := by
  simp only [dataPortRead16, vdpDataRead16, setRegs, autoInc, vreg, setVdp_vdp, setVdp_cfg] at h ⊢
  rw [h]
  rfl

theorem vdpBlockRead8_setRegs (a : Addr) (o : BitVec 5) :
    vdpBlockRead8 a o (setRegs m s) = ((vdpBlockRead8 a o s).1, setRegs m (vdpBlockRead8 a o s).2) := by
  unfold vdpBlockRead8
  cases vdpPort o with
  | data => simp only [dataPortRead8, dataPortRead16_setRegs h]
  | ctrl | psg | none => rfl

theorem busRd8_setRegs (a : Addr) : busRd8 a (setRegs m s) = ((busRd8 a s).1, setRegs m (busRd8 a s).2) := by
  unfold busRd8
  rw [setRegs, setVdp_cfg, setVdp_bus]
  cases region s.cfg s.bus a with
  | vdp o => exact vdpBlockRead8_setRegs h a o
  | io o => exact ioBlockRead8_setRegs a o
  | rom | sram | ram | zram | fm | banksel | sramctl | unmapped => rfl

theorem splitRd16_setRegs (a : Addr) :
    splitRd16 a (setRegs m s) = ((splitRd16 a s).1, setRegs m (splitRd16 a s).2) := by
  have h' : Memory.get 0 m 15 = vreg (busRd8 a s).2.vdp 15 := by rw [vreg, (busRd8_onlyRead a s).vr]; exact h
  simp only [splitRd16, busRd8_setRegs h, busRd8_setRegs h']

theorem busRd16_setRegs (a : Addr) : busRd16 a (setRegs m s) = ((busRd16 a s).1, setRegs m (busRd16 a s).2) := by
  unfold busRd16
  rw [setRegs, setVdp_cfg, setVdp_bus]
  cases region s.cfg s.bus a with
  | vdp o =>
    dsimp only
    cases vdpPort o with
    | data => exact dataPortRead16_setRegs h
    | ctrl => rfl
    | psg | none => exact splitRd16_setRegs h a
  | rom | sram | ram | zram | fm | banksel | io | sramctl | unmapped => exact splitRd16_setRegs h a

end

/-! The unit. -/

/-- A unit of a bus transfer, from source counter `lo` (R354). -/
def busUnit (hi : BitVec 7) (lo : Half) (s : State) : State :=
  setVdp (busRd16 (dmaAddr hi lo) s).2
    (dataUnit s.cfg (busRd16 (dmaAddr hi lo) s).1 (busRd16 (dmaAddr hi lo) s).2.vdp)

theorem dataUnit_pend (c : Cfg) (d : Half) (v : Vdp) : (dataUnit c d v).pend = v.pend := by
  rw [dataUnit_eq, dataPut_only]

/-- A data unit is what the data word makes of it with the flags and the registers put back. -/
theorem dataUnit_eq_dataWord (c : Cfg) (d : Half) (v : Vdp) : dataUnit c d v =
    withControl v.pend v.fillArmed v.vr (dataUnit c d (withControl false false v.vr v)) :=
  dataUnit_withControl c d v.pend v.fillArmed (v := withControl false false v.vr v) rfl

/-- Registers that agree on VR[15] play no part in a data unit. -/
theorem dataUnit_regs (c : Cfg) (d : Half) {m : Mem} {v : Vdp} (h : Memory.get 0 m 15 = vreg v 15) :
    dataUnit c d { v with vr := m } = { dataUnit c d v with vr := m } := by
  refine (dataUnit_withControl c d v.pend v.fillArmed h).trans ?_
  simp only [withControl, dataUnit_pend, dataUnit_fillArmed]

theorem isUnit_bus (hi : BitVec 7) : IsUnit (busUnit hi) where
  ready lo s h := by
    have read := (busRd16_only (dmaAddr hi lo) s).devices
    exact ⟨read.cfg ▸ h.1, read.fault ▸ h.2⟩
  vr lo s := (dataUnit_vr _ _ _).trans (busRd16_onlyRead (dmaAddr hi lo) s).vr
  reply r lo s := by simp only [busUnit, busRd16_reply, reply_cfg, reply_vdp, setVdp_reply]
  setRegs m lo s h := by
    have h' : Memory.get 0 m 15 = vreg (busRd16 (dmaAddr hi lo) s).2.vdp 15 := by
      rw [vreg, (busRd16_onlyRead _ s).vr]
      exact h
    simp only [busUnit, busRd16_setRegs h]
    simp only [setRegs, setVdp_vdp, setVdp_cfg, dataUnit_regs _ _ h']
    rfl

theorem units_bus (hi : BitVec 7) (n : Nat) (lo : Half) (s : State) :
    dmaBusLoop hi n lo s = (lo + BitVec.ofNat 16 n, units (busUnit hi) n lo s) := by
  induction n generalizing lo s with
  | zero => rw [BitVec.add_zero]; rfl
  | succ n ih =>
    simp only [dmaBusLoop, ih, add_one_add_ofNat, units, busUnit, busRd16_cfg]

theorem dmaRun_bus (hi : BitVec 7) (s : State) : dmaBus hi s = dmaRun (busUnit hi) s := by
  simp only [dmaBus, units_bus]
  rfl

theorem exec_dmaBus_eq_dmaRun (hi : BitVec 7) {s : State} (h : s.ready) :
    exec (.dmaBus hi) s = .next (reply .none (dmaRun (busUnit hi) s)) := by
  rw [exec_dmaBus h, dmaRun_bus]

/-! What a transfer keeps. -/

/-- The code stays, and with it every memory it does not select. -/
structure KeepsUnselected (v u : Vdp) : Prop where
  code : u.code = v.code
  vram : modeOf v.code ≠ .vramWr → u.vram = v.vram
  cram : modeOf v.code ≠ .cramWr → u.cram = v.cram
  vsram : modeOf v.code ≠ .vsramWr → u.vsram = v.vsram

theorem KeepsUnselected.refl (v : Vdp) : KeepsUnselected v v := ⟨rfl, fun _ => rfl, fun _ => rfl, fun _ => rfl⟩

theorem KeepsUnselected.trans {v u w : Vdp} (h : KeepsUnselected v u) (k : KeepsUnselected u w) :
    KeepsUnselected v w where
  code := k.code.trans h.code
  vram hm := (k.vram (h.code ▸ hm)).trans (h.vram hm)
  cram hm := (k.cram (h.code ▸ hm)).trans (h.cram hm)
  vsram hm := (k.vsram (h.code ▸ hm)).trans (h.vsram hm)

theorem OnlyRead.keepsUnselected {v u : Vdp} (h : OnlyRead v u) : KeepsUnselected v u := by
  rw [h]
  exact ⟨rfl, fun _ => rfl, fun _ => rfl, fun _ => rfl⟩

theorem dataPut_keepsUnselected (c : Cfg) (d : Half) (v : Vdp) : KeepsUnselected v (dataPut c d v) := by
  cases hm : modeOf v.code with
  | vramWr =>
    rw [dataPut_vramWr_only c d hm]
    exact ⟨rfl, fun h => absurd hm h, fun _ => rfl, fun _ => rfl⟩
  | cramWr =>
    rw [dataPut_cramWr_only c d hm]
    exact ⟨rfl, fun _ => rfl, fun h => absurd hm h, fun _ => rfl⟩
  | vsramWr =>
    by_cases he : entryIx v < c.vsramN
    · rw [dataPut_vsramWr c d hm he]
      exact ⟨rfl, fun _ => rfl, fun _ => rfl, fun h => absurd hm h⟩
    · rw [dataPut_vsramWr_beyond c d hm he]
      exact .refl v
  | vramRd | vsramRd | cramRd | invalid =>
    rw [dataPut_noTarget c d (by simp [hm]) (by simp [hm]) (by simp [hm])]
    exact .refl v

theorem dataUnit_keepsUnselected (c : Cfg) (d : Half) (v : Vdp) : KeepsUnselected v (dataUnit c d v) :=
  have ⟨code, vram, cram, vsram⟩ := dataPut_keepsUnselected c d v
  ⟨code, vram, cram, vsram⟩

theorem busUnit_keepsUnselected (hi : BitVec 7) (lo : Half) (s : State) :
    KeepsUnselected s.vdp (busUnit hi lo s).vdp :=
  (busRd16_onlyRead _ s).keepsUnselected.trans (dataUnit_keepsUnselected _ _ _)

theorem units_keepsUnselected (hi : BitVec 7) (n : Nat) (lo : Half) (s : State) :
    KeepsUnselected s.vdp (units (busUnit hi) n lo s).vdp := by
  induction n generalizing lo s with
  | zero => exact .refl s.vdp
  | succ n ih => exact (busUnit_keepsUnselected hi lo s).trans (ih _ _)

theorem units_busUnit_only (hi : BitVec 7) (n : Nat) (lo : Half) (s : State) :
    OnlyVdp s (units (busUnit hi) n lo s) := by
  have loop := dmaBusLoop_only hi n lo s
  rwa [units_bus] at loop

/-! A source in general RAM: the reads change nothing, so every unit finds the address where the one before left it. -/

/-- A word of general RAM is read without effect. -/
theorem busRd16_ram {s : State} (h : s.cfg.wf = true) {a : Addr} (ha : inWin s.cfg.ramWin a = true)
    (ha' : inWin s.cfg.ramWin (a + 1) = true) : (busRd16 a s).2 = s := by
  have hr := region_ramWin h s.bus ha
  have hr' := region_ramWin h s.bus ha'
  simp only [busRd16, hr, splitRd16, busRd8_ram hr, busRd8_ram hr']

/-- A byte that the address does not select stays, whatever the mode. -/
theorem get_dataPut_other (c : Cfg) (d : Half) (v : Vdp) {k : Nat} (hk : k ≠ vramIx c v)
    (hk' : k ≠ vramIx c v ^^^ 1) : Memory.get 0 (dataPut c d v).vram k = Memory.get 0 v.vram k := by
  by_cases hm : modeOf v.code = .vramWr
  · rw [dataPut_vramWr c d hm, get_vramPut_ne _ hk', get_vramPut_ne _ hk]
  · rw [(dataPut_keepsUnselected c d v).vram hm]

section
variable {hi : BitVec 7} {n : Nat} {lo : Half} {s : State} (h : s.cfg.wf = true)
  (hsrc : ∀ j, j < n → inWin s.cfg.ramWin (dmaAddr hi (lo + BitVec.ofNat 16 j)) = true ∧
    inWin s.cfg.ramWin (dmaAddr hi (lo + BitVec.ofNat 16 j) + 1) = true)
include h hsrc

theorem units_ram_succ {j : Nat} (hj : j < n) : ∃ w, units (busUnit hi) (j + 1) lo s =
    setVdp (units (busUnit hi) j lo s) (dataUnit s.cfg w (units (busUnit hi) j lo s).vdp) := by
  obtain ⟨ha, ha'⟩ := hsrc j hj
  have cfg := (units_busUnit_only hi j lo s).cfg
  rw [← cfg] at h ha ha'
  rw [units_concat, busUnit, busRd16_ram h ha ha', cfg]
  exact ⟨_, rfl⟩

theorem units_ram_addr {j : Nat} (hj : j ≤ n) : (units (busUnit hi) j lo s).vdp.addr =
    s.vdp.addr + BitVec.ofNat 16 (j * (vreg s.vdp 15).toNat) := by
  induction j with
  | zero => simp [units]
  | succ j ih =>
    obtain ⟨w, step⟩ := units_ram_succ h hsrc hj
    rw [step, setVdp_vdp, dataUnit_addr, ih (Nat.le_of_succ_le hj), units_inc (isUnit_bus hi)]
    exact addr_autoInc ..

theorem units_ram_other {j : Nat} (hj : j ≤ n) {k : Nat}
    (hk : ∀ i, i < j → k ≠ unitAt s.cfg s.vdp i ∧ k ≠ unitAt s.cfg s.vdp i ^^^ 1) :
    Memory.get 0 (units (busUnit hi) j lo s).vdp.vram k = Memory.get 0 s.vdp.vram k := by
  induction j with
  | zero => rfl
  | succ j ih =>
    obtain ⟨w, step⟩ := units_ram_succ h hsrc hj
    have place : vramIx s.cfg (units (busUnit hi) j lo s).vdp = unitAt s.cfg s.vdp j := by
      rw [vramIx, units_ram_addr h hsrc (Nat.le_of_succ_le hj), unitAt]
    obtain ⟨hne, hne'⟩ := hk j (Nat.lt_succ_self j)
    rw [← place] at hne hne'
    rw [step]
    exact (get_dataPut_other _ w _ hne hne').trans
      (ih (Nat.le_of_succ_le hj) fun i hi => hk i (Nat.lt_succ_of_lt hi))

end

/-- The word a unit reads and the data word it writes, by their rows; the data-port write drops a pending command and
leaves no fill armed, which a unit does not. -/
theorem busUnit_eq_rows (hi : BitVec 7) (lo : Half) {s : State} (h : s.ready) :
    ∃ t w, ∃ u : State, exec (.rd16 ⟨.dma, 0⟩ (dmaAddr hi lo)) s = .next t ∧ t.resp = .word w ∧
      exec (.vdataWr w) { t with vdp := { t.vdp with fillArmed := false } } = .next u ∧
      (busUnit hi lo s).vdp =
        { u.vdp with pend := t.vdp.pend, fillArmed := s.vdp.fillArmed, vr := s.vdp.vr } := by
  let q := busRd16 (dmaAddr hi lo) s
  have only := (busRd16_only (dmaAddr hi lo) s).devices
  have read : OnlyRead s.vdp q.2.vdp := busRd16_onlyRead (dmaAddr hi lo) s
  have hq : (replyWord q).ready := h.reply only _
  have write := exec_vdataWr (hq.setVdp { q.2.vdp with fillArmed := false }) q.1
  rw [dataPortWrite16, vdpDataWrite16_unarmed _ _ rfl] at write
  refine ⟨replyWord q, q.1, _, exec_rd16 h ⟨.dma, 0⟩ (dmaAddr hi lo), rfl, write, ?_⟩
  have armed : q.2.vdp.fillArmed = s.vdp.fillArmed := by rw [read]
  rw [← armed, ← read.vr, busUnit, setVdp_vdp, ← only.cfg, dataUnit_eq_dataWord]
  rfl

/-- Settles O42: the transfer is a run of units, then the length and the source are written; one unit is a
read and a data word by their rows, and a transfer cut after one unit goes on with the rest. -/
theorem dmaTransfersFromTheBus : Obligations.DmaTransfersFromTheBus := by
  intro s hi hready htables n src a at_ mode length
  obtain ⟨hvr, -⟩ := htables
  have hn : dmaLen s.vdp = n := dmaLen_eq s.vdp
  let t := units (busUnit hi) n src s
  have run : dmaRun (busUnit hi) s = setRegs (endRegs (src + BitVec.ofNat 16 n) s.vdp.vr) t := by
    rw [dmaRun_eq (isUnit_bus hi), hn]
    rfl
  have kept : KeepsUnselected s.vdp t.vdp := units_keepsUnselected hi n src s
  refine ⟨{ t.vdp with vr := endRegs (src + BitVec.ofNat 16 n) s.vdp.vr }, ?_, kept.code, get_endRegs hvr.1 _,
    fun hm => kept.vram (mt (modeOf_vramWr _).mp hm), fun hm => kept.cram (mt (modeOf_cramWr _).mp hm),
    fun hm => kept.vsram (mt (modeOf_vsramWr _).mp hm),
    fun hsrc => ⟨units_ram_addr hready.1 hsrc (Nat.le_refl n),
      fun k hk => units_ram_other hready.1 hsrc (Nat.le_refl n) hk⟩, fun h1 => ?_, fun h1 => ?_⟩
  · have only : t = setVdp s t.vdp := units_busUnit_only hi n src s
    rw [exec_dmaBus_eq_dmaRun hi hready, run, only]
    rfl
  · obtain ⟨r, w, u, read, word, write, unit⟩ := busUnit_eq_rows hi src hready
    have one : t = busUnit hi src s := congrArg (units (busUnit hi) · src s) h1
    refine ⟨r, w, u, ?_, word, write, ?_⟩
    · rw [← read, show a 0 = dmaAddr hi src from congrArg (dmaAddr hi) (BitVec.add_zero src)]
    · rw [one, unit]
  · have two := exec_resume (isUnit_bus hi) (fun _ => exec_dmaBus_eq_dmaRun hi) hready hvr.1 (hn ▸ h1)
    rw [hn] at two
    exact two

end Sys2Proof.Machine

/-! ### What every operation keeps of the VDP (10_state.md R49 to R55, 43_vdp_compositor.md R394): the form of its
tables, and the validity of each of its two caches. -/

namespace Sys2Proof.Machine

/-- The palette's half of R394: while its dirty bit is clear, the cache is valid and no entry's bit is set. -/
def Vdp.paletteInv (c : Cfg) (v : Vdp) : Prop := v.dirtyPalette = false →
  v.palCache = Memory.ofList 0 0 (paletteBytes c v) ∧ ∀ i, Memory.get false v.dirtyCram i = false

/-- The sprite order's half of R394. -/
def Vdp.spriteInv (c : Cfg) (v : Vdp) : Prop := v.dirtySprite = false →
  v.sprOrder = spriteOrder c v ∧ ∀ g, Memory.get false v.dirtyVram g = false

theorem Vdp.cacheInv_iff {c : Cfg} {v : Vdp} : Vdp.cacheInv c v ↔ Vdp.paletteInv c v ∧ Vdp.spriteInv c v := by
  have clear {m : Sparse Bool} {g : Bool} : (∀ i, Memory.get false m i = true → g = true) ↔
      (g = false → ∀ i, Memory.get false m i = false) := by
    cases g <;> simp
  simp only [Vdp.cacheInv, Vdp.paletteInv, Vdp.spriteInv, clear, imp_and]
  exact ⟨fun ⟨pal, spr, cram, vram⟩ => ⟨⟨pal, cram⟩, spr, vram⟩,
    fun ⟨⟨pal, cram⟩, spr, vram⟩ => ⟨pal, spr, cram, vram⟩⟩

/-- The order is a function of the video RAM and of VR[5] (R390). -/
theorem spriteOrder_congr {c : Cfg} {v w : Vdp} (hvram : w.vram = v.vram) (hbase : vreg w 5 = vreg v 5) :
    spriteOrder c w = spriteOrder c v := by
  have link (i : Nat) : spriteLink c w i = spriteLink c v i := by
    unfold spriteLink vramGet satBase
    rw [hvram, hbase]
  have chain (n i : Nat) : spriteChain c w n i = spriteChain c v n i := by
    induction n generalizing i with
    | zero => rfl
    | succ n ih => simp only [spriteChain, link, ih]
  exact chain _ _

/-- Each part of a good VDP that holds of `v` holds of `w`. -/
structure Vdp.Keeps (c : Cfg) (v w : Vdp) : Prop where
  tables : c.wf = true → Vdp.tables c v → Vdp.tables c w
  palette : Vdp.paletteInv c v → Vdp.paletteInv c w
  sprites : Vdp.spriteInv c v → Vdp.spriteInv c w

theorem Vdp.Keeps.cacheInv {c : Cfg} {v w : Vdp} (k : Vdp.Keeps c v w) (h : Vdp.cacheInv c v) : Vdp.cacheInv c w :=
  have ⟨palette, sprites⟩ := Vdp.cacheInv_iff.mp h
  Vdp.cacheInv_iff.mpr ⟨k.palette palette, k.sprites sprites⟩

theorem Vdp.Keeps.refl (c : Cfg) (v : Vdp) : Vdp.Keeps c v v := ⟨fun _ => id, id, id⟩

theorem Vdp.Keeps.trans {c : Cfg} {u v w : Vdp} (h : Vdp.Keeps c u v) (k : Vdp.Keeps c v w) : Vdp.Keeps c u w :=
  ⟨fun hc => k.tables hc ∘ h.tables hc, k.palette ∘ h.palette, k.sprites ∘ h.sprites⟩

/-- A sprite order stays valid while the bytes it was made of stay. -/
theorem Vdp.spriteInv_congr {c : Cfg} {v w : Vdp} (hvram : w.vram = v.vram) (hbase : vreg w 5 = vreg v 5)
    (hdirty : w.dirtySprite = v.dirtySprite) (hregions : w.dirtyVram = v.dirtyVram) (horder : w.sprOrder = v.sprOrder)
    (h : Vdp.spriteInv c v) : Vdp.spriteInv c w := by
  unfold Vdp.spriteInv
  rw [spriteOrder_congr hvram hbase, hdirty, hregions, horder]
  exact h

section
variable (c : Cfg) (v : Vdp)

/-- The control state and the status bits (R53, R54) are no part of it. -/
theorem Vdp.keeps_control (pend : Bool) (cmdHi : Half) (code : BitVec 6) (addr : Half) (fillArmed vb hb f : Bool) :
    Vdp.Keeps c v { v with
      pend := pend, cmdHi := cmdHi, code := code, addr := addr, fillArmed := fillArmed
      stVblank := vb, stHblank := hb, stF := f } :=
  ⟨fun _ => id, id, Vdp.spriteInv_congr rfl rfl rfl rfl rfl⟩

theorem OnlyRead.keeps {c : Cfg} {v w : Vdp} (h : OnlyRead v w) : Vdp.Keeps c v w :=
  h ▸ Vdp.keeps_control ..

theorem Vdp.keeps_fresh : Vdp.Keeps c v (Vdp.fresh c) := ⟨fun _ _ => Vdp.tables_fresh c, fun _ => nofun, fun _ => nofun⟩

/-! The primitive writers (R340 to R344). -/

/-- The regions of video RAM are whole: its size is a multiple of 256 (00_scope.md R18). -/
theorem Cfg.vram_region_lt {c : Cfg} (h : c.wf = true) {A : Nat} (hA : A < c.vramSize) :
    A / 256 < c.vramSize / 256 := by
  simp only [Cfg.wf, Cfg.sizesWf, Bool.and_eq_true, decide_eq_true_eq] at h
  obtain ⟨-, ⟨⟨⟨-, whole, -⟩, -⟩, -⟩, -⟩ := h
  omega

theorem Vdp.keeps_vramPut (A : Nat) (x : Byte) : Vdp.Keeps c v (vramPut c A x v) where
  tables hc h := by
    obtain ⟨vr, vram, cram, vsram, regions, entries, cache, order⟩ := h
    unfold vramPut
    split
    · next hA =>
      exact ⟨vr, Memory.table_put _ _ _ vram A x hA, cram, vsram,
        Memory.table_put _ _ _ regions _ _ (Cfg.vram_region_lt hc hA), entries, cache, order⟩
    · exact ⟨vr, vram, cram, vsram, regions, entries, cache, order⟩
  palette h := by
    rw [vramPut_eq]
    exact h
  sprites _ := by
    rw [vramPut_eq]
    nofun

theorem Vdp.keeps_cramPut (e : Nat) (d : Half) : Vdp.Keeps c v (cramPut c e d v) where
  tables _ h := by
    obtain ⟨vr, vram, cram, vsram, regions, entries, cache, order⟩ := h
    unfold cramPut
    split
    · next he =>
      exact ⟨vr, vram, Memory.table_put _ _ _ cram e d he, vsram, regions, Memory.table_put _ _ _ entries e true he,
        cache, order⟩
    · exact ⟨vr, vram, cram, vsram, regions, entries, cache, order⟩
  palette _ := by
    rw [cramPut_eq]
    nofun
  sprites := by
    rw [cramPut_eq]
    exact Vdp.spriteInv_congr rfl rfl rfl rfl rfl

theorem Vdp.keeps_vsramPut {e : Nat} (he : e < c.vsramN) (d : Half) : Vdp.Keeps c v (vsramPut e d v) where
  tables _ h := by
    obtain ⟨vr, vram, cram, vsram, rest⟩ := h
    exact ⟨vr, vram, cram, Memory.table_put _ _ _ vsram e d he, rest⟩
  palette := id
  sprites := Vdp.spriteInv_congr rfl rfl rfl rfl rfl

theorem Vdp.tables_vregRaw {c : Cfg} {v : Vdp} (h : Vdp.tables c v) {r : Nat} (hr : r < 32) (d : Byte) :
    Vdp.tables c (vregRaw r d v) := by
  obtain ⟨vr, rest⟩ := h
  exact ⟨Memory.table_put _ _ _ vr r d hr, rest⟩

/-- DMA completion writes registers but not the sprite table's base. -/
theorem Vdp.keeps_vregRaw {r : Nat} (hr : r < 32) (hbase : 5 ≠ r) (d : Byte) : Vdp.Keeps c v (vregRaw r d v) :=
  ⟨fun _ h => Vdp.tables_vregRaw h hr d, id,
    Vdp.spriteInv_congr rfl (Memory.get_put_ne 0 v.vr d hbase) rfl rfl rfl⟩

/-- A register set marks both caches, whatever the register is. -/
theorem Vdp.keeps_regPut (r : BitVec 5) (d : Byte) : Vdp.Keeps c v (regPut r d v) :=
  ⟨fun _ h => Vdp.tables_vregRaw h r.isLt d, fun _ => nofun, fun _ => nofun⟩

theorem Vdp.keeps_autoInc : Vdp.Keeps c v (autoInc v) := Vdp.keeps_control ..

/-! Data words and the DMA inside video RAM (R335, R356 to R358). -/

theorem Vdp.keeps_dataPut (d : Half) : Vdp.Keeps c v (dataPut c d v) := by
  unfold dataPut
  cases modeOf v.code with
  | vramWr => exact (Vdp.keeps_vramPut ..).trans (Vdp.keeps_vramPut ..)
  | cramWr => exact Vdp.keeps_cramPut ..
  | vsramWr =>
    dsimp only
    split
    · next he => exact Vdp.keeps_vsramPut c v he d
    · exact .refl c v
  | vramRd | vsramRd | cramRd | invalid => exact .refl c v

theorem Vdp.keeps_dataUnit (d : Half) : Vdp.Keeps c v (dataUnit c d v) :=
  (Vdp.keeps_dataPut c v d).trans (Vdp.keeps_autoInc ..)

theorem Vdp.keeps_fillLoop (b : Byte) (n : Nat) (v : Vdp) : Vdp.Keeps c v (fillLoop c b n v) := by
  induction n generalizing v with
  | zero => exact .refl c v
  | succ n ih => exact ((Vdp.keeps_vramPut ..).trans (Vdp.keeps_autoInc ..)).trans (ih _)

theorem Vdp.keeps_copyLoop (n : Nat) (src : Half) (v : Vdp) : Vdp.Keeps c v (copyLoop c n src v).2 := by
  induction n generalizing src v with
  | zero => exact .refl c v
  | succ n ih => exact ((Vdp.keeps_vramPut ..).trans (Vdp.keeps_autoInc ..)).trans (ih _ _)

theorem Vdp.keeps_clearDmaLen : Vdp.Keeps c v (clearDmaLen v) :=
  (Vdp.keeps_vregRaw c v (by decide) (by decide) 0).trans (Vdp.keeps_vregRaw c _ (by decide) (by decide) 0)

theorem Vdp.keeps_putDmaSrc (lo : Half) : Vdp.Keeps c v (putDmaSrc lo v) :=
  (Vdp.keeps_vregRaw c v (by decide) (by decide) _).trans (Vdp.keeps_vregRaw c _ (by decide) (by decide) _)

theorem Vdp.keeps_dmaFill (b : Byte) : Vdp.Keeps c v (dmaFill c b v) :=
  (Vdp.keeps_fillLoop c b _ v).trans (Vdp.keeps_clearDmaLen ..)

theorem Vdp.keeps_dmaCopy : Vdp.Keeps c v (dmaCopy c v) :=
  ((Vdp.keeps_copyLoop c _ _ v).trans (Vdp.keeps_clearDmaLen ..)).trans (Vdp.keeps_putDmaSrc ..)

theorem Vdp.keeps_vdpDataWrite16 (d : Half) : Vdp.Keeps c v (vdpDataWrite16 c d v) := by
  have unit : Vdp.Keeps c v (dataUnit c d { v with pend := false }) :=
    (Vdp.keeps_control ..).trans (Vdp.keeps_dataUnit ..)
  unfold vdpDataWrite16
  dsimp only
  split
  · have disarmed : Vdp.Keeps c v { dataUnit c d { v with pend := false } with fillArmed := false } :=
      unit.trans (Vdp.keeps_control ..)
    split
    · exact disarmed.trans (Vdp.keeps_dmaFill ..)
    · exact disarmed
  · exact unit

/-! The rebuilds of a drawn line (R386, R392, R400). -/

/-- A pixel has `BPP` bytes, for the sizes R14 gives. -/
theorem pixelOf_length {bpp : Nat} (hpos : 1 ≤ bpp) (hmax : bpp ≤ 4) (i : Nat) (d : Half) :
    (pixelOf bpp i d).length = bpp := by
  match bpp, hpos, hmax with
  | 1, _, _ | 2, _, _ | 3, _, _ | 4, _, _ => rfl

theorem Cfg.bpp_bounds {c : Cfg} (h : c.wf = true) : 1 ≤ c.bpp ∧ c.bpp ≤ 4 := by
  simp only [Cfg.wf, Cfg.sizesWf, Bool.and_eq_true, decide_eq_true_eq] at h
  exact h.2.2

/-- The length of a table written row by row, every row of one length. -/
theorem length_flatMap_range {α : Type} {f : Nat → List α} {w : Nat} (hw : ∀ i, (f i).length = w) (n : Nat) :
    ((List.range n).flatMap f).length = n * w := by
  induction n with
  | zero => exact (Nat.zero_mul w).symm
  | succ n ih =>
    rw [List.range_succ, List.flatMap_append, List.length_append, ih, List.flatMap_singleton, hw, Nat.succ_mul]

theorem paletteBytes_length {c : Cfg} (h : c.wf = true) (v : Vdp) : (paletteBytes c v).length = c.cramN * c.bpp :=
  have ⟨hpos, hmax⟩ := Cfg.bpp_bounds h
  length_flatMap_range (fun i => pixelOf_length hpos hmax i (Memory.get 0 v.cram i)) c.cramN

theorem Vdp.keeps_rebuildPalette : Vdp.Keeps c v (rebuildPalette c v) where
  tables hc h := by
    obtain ⟨vr, vram, cram, vsram, regions, -, -, order⟩ := h
    exact ⟨vr, vram, cram, vsram, regions, Memory.table_nil ..,
      Memory.table_ofList _ _ _ (Nat.le_of_eq (paletteBytes_length hc v)), order⟩
  palette _ _ := ⟨rfl, fun _ => rfl⟩
  sprites := Vdp.spriteInv_congr rfl rfl rfl rfl rfl

theorem spriteChain_length_le (n i : Nat) : (spriteChain c v n i).length ≤ n := by
  induction n generalizing i with
  | zero => exact Nat.le_refl 0
  | succ n ih =>
    simp only [spriteChain]
    split
    · exact Nat.succ_le_succ (Nat.zero_le n)
    · exact Nat.succ_le_succ (ih _)

theorem spriteOrder_length_le : (spriteOrder c v).length ≤ Cfg.spriteCap := spriteChain_length_le c v _ _

theorem Vdp.keeps_rebuildSprites : Vdp.Keeps c v (rebuildSprites c v) where
  tables _ h := by
    obtain ⟨vr, vram, cram, vsram, -, entries, cache, -⟩ := h
    exact ⟨vr, vram, cram, vsram, Memory.table_nil .., entries, cache, spriteOrder_length_le c v⟩
  palette := id
  sprites _ _ := ⟨(spriteOrder_congr (v := v) (w := rebuildSprites c v) rfl rfl).symm, fun _ => rfl⟩

/-- The palette's part of a refresh: a rebuild where its dirty bit is set. -/
def refreshPalette (c : Cfg) (v : Vdp) : Vdp := if v.dirtyPalette then rebuildPalette c v else v

/-- The sprite order's part of a refresh. -/
def refreshSprites (c : Cfg) (v : Vdp) : Vdp := if v.dirtySprite then rebuildSprites c v else v

theorem refreshCaches_eq : refreshCaches c v = refreshSprites c (refreshPalette c v) := rfl

theorem Vdp.keeps_refreshPalette : Vdp.Keeps c v (refreshPalette c v) := by
  unfold refreshPalette
  split
  · exact Vdp.keeps_rebuildPalette c v
  · exact .refl c v

theorem Vdp.keeps_refreshSprites : Vdp.Keeps c v (refreshSprites c v) := by
  unfold refreshSprites
  split
  · exact Vdp.keeps_rebuildSprites c v
  · exact .refl c v

theorem Vdp.keeps_refreshCaches : Vdp.Keeps c v (refreshCaches c v) :=
  (Vdp.keeps_refreshPalette ..).trans (Vdp.keeps_refreshSprites ..)

theorem Vdp.keeps_drawLine (x : Std) (n : Int) (fb : Mem) : Vdp.Keeps c v (drawLine c x n v fb).1 := by
  unfold drawLine
  split
  · exact .refl c v
  · split
    · exact Vdp.keeps_refreshCaches c v
    · exact .refl c v

end

end Sys2Proof.Machine

/-! ### What every operation keeps of the sound glue (10_state.md R56 to R59): its ranges and the form of its tables. -/

namespace Sys2Proof.Machine

/-- `y` is a good sound group if `x` is. -/
structure Snd.Keeps (c : Cfg) (x y : Snd) : Prop where
  inv : c.wf = true → Snd.inv c x → Snd.inv c y

theorem Snd.Keeps.refl (c : Cfg) (x : Snd) : Snd.Keeps c x x := ⟨fun _ => id⟩

theorem Snd.Keeps.trans {c : Cfg} {x y z : Snd} (h : Snd.Keeps c x y) (k : Snd.Keeps c y z) : Snd.Keeps c x z :=
  ⟨fun hc => k.inv hc ∘ h.inv hc⟩

section
variable (c : Cfg) (now : Nat) (v : Byte) (x : Snd)

theorem Snd.keeps_synthLog (l : List SynthEntry) : Snd.Keeps c x { x with synthLog := l } := ⟨fun _ => id⟩

theorem Snd.keeps_forward (chip : Chip) (b : Nat) (r : Byte) : Snd.Keeps c x (forward now chip b r v x) :=
  Snd.keeps_synthLog ..

theorem Snd.keeps_timerSet (t : TimerId) (m : Timer) : Snd.Keeps c x (timerSet x t m) := by
  cases t <;> exact ⟨fun _ => id⟩

/-- The two flags are the two low bits of the byte (R58). -/
theorem field_setOverflow {tover : Byte} (h : field tover 2 6 = 0) (t : TimerId) (on : Bool) :
    field (setOverflow tover t on) 2 6 = 0 := by
  unfold field at h
  cases on <;> cases t <;> simp [setOverflow, field, BitVec.extractLsb'_and, BitVec.extractLsb'_or, h, timerBit]

theorem Snd.keeps_overflow (t : TimerId) (on : Bool) : Snd.Keeps c x { x with tover := setOverflow x.tover t on } :=
  ⟨fun _ ⟨sel, fm, flags, rest⟩ => ⟨sel, fm, field_setOverflow flags t on, rest⟩⟩

theorem Snd.keeps_ackTimers : Snd.Keeps c x (ackTimers c v x) := by
  refine ⟨fun _ h => ?_⟩
  obtain ⟨sel, fm, flags, rest⟩ := h
  have ack {tover : Byte} (h : field tover 2 6 = 0) (t : TimerId) (P : Prop) [Decidable P] :
      field (if P then setOverflow tover t false else tover) 2 6 = 0 := by
    split
    · exact field_setOverflow h t false
    · exact h
  exact ⟨sel, fm, ack (ack flags ..) .., rest⟩

theorem Snd.keeps_modeTimer (old : Byte) (t : TimerId) : Snd.Keeps c x (modeTimer c now old v t x) := by
  unfold modeTimer
  split
  · split
    · exact ⟨fun _ => id⟩
    · exact Snd.keeps_timerSet ..
  · exact Snd.keeps_timerSet ..

theorem Snd.keeps_modeWrite (old : Byte) : Snd.Keeps c x (modeWrite c now old v x) :=
  ((Snd.keeps_modeTimer ..).trans (Snd.keeps_modeTimer ..)).trans (Snd.keeps_ackTimers ..)

theorem Cfg.dacBufLen_pos {c : Cfg} (h : c.wf = true) : 1 ≤ c.dacBufLen := by
  simp only [Cfg.wf, Cfg.sizesWf, Bool.and_eq_true, decide_eq_true_eq] at h
  obtain ⟨-, ⟨⟨-, len⟩, -⟩, -⟩ := h
  exact len

/-- The clamped time is an entry of the buffer, and so are the entries skipped before it (R446). -/
theorem Snd.keeps_capture : Snd.Keeps c x (capture c now v x) := by
  refine ⟨fun hc h => ?_⟩
  obtain ⟨sel, fm, flags, ⟨lo, hi⟩, buf⟩ := h
  have len := Cfg.dacBufLen_pos hc
  unfold capture
  dsimp only
  split
  · exact ⟨sel, fm, flags, ⟨by dsimp only; omega, by dsimp only; omega⟩,
      Memory.table_put _ _ _ (Memory.table_fill _ _ _ _ _ _ buf (by omega)) _ v (by omega)⟩
  · exact ⟨sel, fm, flags, ⟨lo, hi⟩, Memory.table_put _ _ _ buf _ v (by omega)⟩

theorem Snd.keeps_dacEnable : Snd.Keeps c x (dacEnable c now v x) := by
  unfold dacEnable
  split
  · exact ⟨fun _ => id⟩
  · split
    · exact ⟨(Snd.keeps_capture c now 0x80 x).inv⟩
    · exact ⟨fun _ => id⟩

theorem Snd.keeps_dacData : Snd.Keeps c x (dacData c now v x) := by
  unfold dacData
  split
  · exact Snd.keeps_capture ..
  · exact ⟨fun _ => id⟩

theorem Snd.keeps_shadow (b : BitVec 1) (r : Byte) :
    Snd.Keeps c x { x with fm := Memory.put 0 x.fm (b.toNat * 256 + r.toNat) v } := by
  refine ⟨fun _ h => ?_⟩
  obtain ⟨sel, fm, rest⟩ := h
  have hb := b.isLt
  have hr := r.isLt
  exact ⟨sel, Memory.table_put _ _ _ fm _ v (by omega), rest⟩

theorem Snd.keeps_soundRegWrite (b : BitVec 1) (r : Byte) : Snd.Keeps c x (soundRegWrite c now b r v x) := by
  refine (Snd.keeps_shadow c v x b r).trans ?_
  unfold soundRegWrite
  dsimp only
  split
  · exact (Snd.keeps_modeWrite ..).trans (Snd.keeps_forward ..)
  · split
    · exact Snd.keeps_dacData ..
    · split
      · exact Snd.keeps_dacEnable ..
      · exact Snd.keeps_forward ..

theorem Snd.keeps_soundWrite (p : BitVec 2) : Snd.Keeps c x (soundWrite c now p v x) := by
  unfold soundWrite
  split
  · exact Snd.keeps_soundRegWrite ..
  · exact ⟨fun _ ⟨sel, rest⟩ => ⟨Memory.table_put _ _ _ sel _ v (bit p 1).isLt, rest⟩⟩

theorem Snd.keeps_tickTimer (t : TimerId) : Snd.Keeps c x (tickTimer now t x) := by
  unfold tickTimer
  dsimp only
  split
  · cases t <;> exact ⟨(Snd.keeps_overflow c x _ true).inv⟩
  · exact ⟨fun _ => id⟩

theorem Snd.keeps_timerTick : Snd.Keeps c x (timerTick now x) := (Snd.keeps_tickTimer ..).trans (Snd.keeps_tickTimer ..)

theorem Snd.keeps_soundFrameStart : Snd.Keeps c x (soundFrameStart x) :=
  ⟨fun _ ⟨sel, fm, flags, _, buf⟩ => ⟨sel, fm, flags, ⟨Int.le_refl _, by simp only [soundFrameStart]; omega⟩, buf⟩⟩

theorem Snd.keeps_timerRebase (us : Nat) : Snd.Keeps c x (timerRebase us x) := ⟨fun _ => id⟩

theorem Snd.keeps_holdToEnd : Snd.Keeps c x (holdToEnd c x) :=
  ⟨fun _ ⟨sel, fm, flags, ⟨lo, hi⟩, buf⟩ =>
    ⟨sel, fm, flags, ⟨lo, hi⟩, Memory.table_fill _ _ _ _ _ _ buf (by omega)⟩⟩

end

end Sys2Proof.Machine

/-! ### What every operation keeps of the bus (10_state.md R41 to R48): its ranges, the form of its tables, the patches
and the save-RAM descriptor. -/

namespace Sys2Proof.Machine

/-- `d` is a good bus if `b` is. -/
structure Bus.Keeps (c : Cfg) (b d : Bus) : Prop where
  inv : c.wf = true → Bus.inv c b → Bus.inv c d

theorem Bus.Keeps.refl (c : Cfg) (b : Bus) : Bus.Keeps c b b := ⟨fun _ => id⟩

theorem Bus.Keeps.trans {c : Cfg} {b d e : Bus} (h : Bus.Keeps c b d) (k : Bus.Keeps c d e) : Bus.Keeps c b e :=
  ⟨fun hc => k.inv hc ∘ h.inv hc⟩

/-- What an operation keeps may rest on the configuration being well formed. -/
theorem Bus.Keeps.of_wf {c : Cfg} {b d : Bus} (h : c.wf = true → Bus.Keeps c b d) : Bus.Keeps c b d :=
  ⟨fun hc => (h hc).inv hc⟩

/-! The pads (R45). -/

section
variable {c : Cfg} {b : Bus}

theorem Bus.inv.pads (h : Bus.inv c b) :
    Memory.table 0 c.nPads b.padPhase ∧ Memory.table 0 c.nPads b.padTimeout := by
  obtain ⟨-, -, -, -, -, -, -, phase, timeout, -⟩ := h
  exact ⟨phase, timeout⟩

theorem Bus.inv.withPads (h : Bus.inv c b) {phase : Sparse (BitVec 2)} {timeout : Sparse Nat}
    (hphase : Memory.table 0 c.nPads phase) (htimeout : Memory.table 0 c.nPads timeout) :
    Bus.inv c { b with padPhase := phase, padTimeout := timeout } := by
  obtain ⟨rom, sram, ram, zram, data, ctrl, ser, -, -, patches⟩ := h
  exact ⟨rom, sram, ram, zram, data, ctrl, ser, hphase, htimeout, patches⟩

end

section
variable (c : Cfg) (b : Bus)

theorem Bus.keeps_padEdge (p : Nat) (before : Bus) : Bus.Keeps c b (padEdge c p before b) := by
  refine ⟨fun _ h => ?_⟩
  unfold padEdge
  split
  · next hp =>
    obtain ⟨phase, timeout⟩ := h.pads
    unfold thEdge
    split
    · exact h
    · refine h.withPads ?_ (Memory.table_put _ _ _ timeout p 0 hp)
      split
      · exact Memory.table_put _ _ _ phase p _ hp
      · exact phase
  · exact h

theorem Bus.keeps_padTimeoutAt {p : Nat} (hp : p < c.nPads) : Bus.Keeps c b (padTimeoutAt c p b) := by
  refine ⟨fun _ h => ?_⟩
  obtain ⟨phase, timeout⟩ := h.pads
  unfold padTimeoutAt
  split
  · exact h
  · dsimp only
    split
    · exact h.withPads (Memory.table_put _ _ _ phase p _ hp) (Memory.table_put _ _ _ timeout p _ hp)
    · exact h.withPads phase (Memory.table_put _ _ _ timeout p _ hp)

theorem Bus.keeps_padTimeouts {n : Nat} (hn : n ≤ c.nPads) : Bus.Keeps c b (padTimeouts c n b) := by
  induction n with
  | zero => exact ⟨fun _ => id⟩
  | succ n ih =>
    rw [padTimeouts_succ]
    exact (ih (Nat.le_of_succ_le hn)).trans (Bus.keeps_padTimeoutAt c _ hn)

/-! The registers: I/O, bank select, save-RAM control. -/

/-- A write of one of the sixteen I/O registers. -/
theorem Bus.keeps_ioWrite {i : Nat} (hi : i < 16) (v : Byte) : Bus.Keeps c b (ioWrite c i v b) := by
  obtain rfl | ⟨p, hp, rfl⟩ | ⟨p, hp, rfl⟩ | ⟨k, rfl⟩ := ioRegister_cases i
  · exact ⟨fun _ => id⟩
  · rw [ioWrite_data _ _ _ hp]
    refine .trans (d := { b with ioData := Memory.put 0x7F b.ioData p v }) ?_ (Bus.keeps_padEdge ..)
    exact ⟨fun _ ⟨rom, sram, ram, zram, data, rest⟩ =>
      ⟨rom, sram, ram, zram, Memory.table_put _ _ _ data p v hp, rest⟩⟩
  · rw [ioWrite_ctrl _ _ _ hp]
    refine .trans (d := { b with ioCtrl := Memory.put 0 b.ioCtrl p v }) ?_ (Bus.keeps_padEdge ..)
    exact ⟨fun _ ⟨rom, sram, ram, zram, data, ctrl, rest⟩ =>
      ⟨rom, sram, ram, zram, data, Memory.table_put _ _ _ ctrl p v hp, rest⟩⟩
  · rw [ioWrite_ser]
    exact ⟨fun _ ⟨rom, sram, ram, zram, data, ctrl, ser, rest⟩ =>
      ⟨rom, sram, ram, zram, data, ctrl, Memory.table_put _ _ _ ser k v (by omega), rest⟩⟩

theorem Bus.keeps_bankShift (v : Byte) : Bus.Keeps c b (bankShift v b) := ⟨fun _ => id⟩

/-- The save-RAM part alone. -/
theorem Bus.keeps_sram {d : SaveRam} (h : SaveRam.inv c b.sram → SaveRam.inv c d) :
    Bus.Keeps c b { b with sram := d } :=
  ⟨fun _ ⟨rom, sram, rest⟩ => ⟨rom, h sram, rest⟩⟩

/-- A present descriptor stays one, whatever its two control bits and its bytes are. -/
theorem SaveRam.inv.present {c : Cfg} {d : SaveRam} (h : SaveRam.inv c d) (hp : d.present = true) (active wp : Bool)
    {bytes : Mem} (hbytes : Memory.table 0 (d.stop.toNat - d.start.toNat + 1) d.bytes →
      Memory.table 0 (d.stop.toNat - d.start.toNat + 1) bytes) :
    SaveRam.inv c { d with active := active, wp := wp, bytes := bytes } := by
  obtain ⟨even, odd, lt, le, table⟩ := h.1 hp
  exact ⟨fun _ => ⟨even, odd, lt, le, hbytes table⟩, fun hn => absurd (hp.symm.trans hn) (by decide)⟩

theorem Bus.keeps_sramCtlWrite (v : Byte) : Bus.Keeps c b (sramCtlWrite v b) := by
  unfold sramCtlWrite
  split
  · next hp => exact Bus.keeps_sram c b fun h => h.present hp _ _ id
  · exact ⟨fun _ => id⟩

/-! Writes to the memories, at an offset inside them. -/

theorem Bus.keeps_sramWrite {o : Nat} (hp : b.sram.present = true) (ho : o ≤ b.sram.stop.toNat - b.sram.start.toNat)
    (v : Byte) : Bus.Keeps c b (sramWrite o v b) := by
  unfold sramWrite
  split
  · exact ⟨fun _ => id⟩
  · exact Bus.keeps_sram c b fun h =>
      h.present hp _ _ fun table => Memory.table_put _ _ _ table o v (Nat.lt_succ_of_le ho)

theorem Bus.keeps_ramWrite {o : Nat} (ho : o < c.ramSize) (v : Byte) : Bus.Keeps c b (ramWrite o v b) :=
  ⟨fun _ ⟨rom, sram, ram, rest⟩ => ⟨rom, sram, Memory.table_put _ _ _ ram o v ho, rest⟩⟩

theorem Bus.keeps_zramWrite {o : Nat} (ho : o < c.zramSize) (v : Byte) : Bus.Keeps c b (zramWrite o v b) :=
  ⟨fun _ ⟨rom, sram, ram, zram, rest⟩ => ⟨rom, sram, ram, Memory.table_put _ _ _ zram o v ho, rest⟩⟩

end

/-- The offset a region carries is one of the memory it stands for. -/
def Region.inside (c : Cfg) (b : Bus) : Region → Prop
  | .sram o => b.sram.present = true ∧ o ≤ b.sram.stop.toNat - b.sram.start.toNat
  | .ram o => o < c.ramSize
  | .zram o => o < c.zramSize
  | .rom _ | .fm _ | .banksel | .io _ | .sramctl | .vdp _ | .unmapped => True

/-- The RAM sizes are powers of two (00_scope.md R18), so none is 0. -/
theorem Cfg.ram_sizes_pos {c : Cfg} (h : c.wf = true) : 0 < c.ramSize ∧ 0 < c.zramSize := by
  simp only [Cfg.wf, Cfg.sizesWf, isPow2, Bool.and_eq_true, decide_eq_true_eq] at h
  obtain ⟨-, ⟨⟨⟨⟨⟨ram, -⟩, zram, -⟩, -⟩, -⟩, -⟩, -⟩ := h
  exact ⟨Nat.pos_of_ne_zero ram, Nat.pos_of_ne_zero zram⟩

theorem and_mask_lt {n : Nat} (hn : 0 < n) (a : Nat) : a &&& (n - 1) < n :=
  Nat.lt_of_le_of_lt Nat.and_le_right (Nat.sub_lt hn Nat.one_pos)

theorem cartRegion_inside (c : Cfg) (b : Bus) (a : Addr) : (cartRegion b a).inside c b := by
  unfold cartRegion
  rw [sramAt_eq]
  split
  · next o ho =>
    split at ho
    · next hin =>
      obtain ⟨present, -, -, hstop⟩ := hin
      obtain rfl := Option.some.inj ho
      exact ⟨present, Nat.sub_le_sub_right hstop _⟩
    · cases ho
  · split <;> trivial

/-- What holds of both branches of a decode holds of what it answers. -/
theorem ite_holds {α : Type} (P : α → Prop) {q : Prop} [Decidable q] {x y : α} (hx : P x) (hy : P y) :
    P (if q then x else y) := by
  split
  · exact hx
  · exact hy

/-- Branch by branch of R110: the mirrored memories mask the address by their size. -/
theorem region_inside {c : Cfg} (h : c.wf = true) {b : Bus} {a : Addr} {r : Region} (hr : region c b a = r) :
    r.inside c b := by
  obtain ⟨ram, zram⟩ := Cfg.ram_sizes_pos h
  have decode {q : Prop} [Decidable q] {x y : Region} : x.inside c b → y.inside c b → (if q then x else y).inside c b :=
    ite_holds (Region.inside c b)
  rw [← hr]
  exact decode (cartRegion_inside c b a) (decode (and_mask_lt zram _) (decode trivial (decode trivial (decode trivial
    (decode trivial (decode trivial (decode (and_mask_lt ram _) trivial)))))))

/-- The offset the AUX decode gives is one of coprocessor RAM. -/
def AuxTarget.inside (c : Cfg) : AuxTarget → Prop
  | .zram o => o < c.zramSize
  | .fm _ | .banksel | .main _ | .none => True

theorem auxTarget_inside {c : Cfg} (h : c.wf = true) {bank : BitVec 9} {a : AuxAddr} {r : AuxTarget}
    (hr : auxTarget c bank a = r) : r.inside c := by
  obtain ⟨-, zram⟩ := Cfg.ram_sizes_pos h
  have decode {q : Prop} [Decidable q] {x y : AuxTarget} : x.inside c → y.inside c → (if q then x else y).inside c :=
    ite_holds (AuxTarget.inside c)
  rw [← hr]
  exact decode (and_mask_lt zram _) (decode trivial (decode trivial (decode trivial (decode trivial trivial))))

/-! The cartridge socket (R41, R42, R48). -/

theorem SaveRam.inv_saveRamOf {c : Cfg} (h : c.wf = true) (g : Image) : SaveRam.inv c (saveRamOf c g) := by
  have map := Cfg.mapWf_of_wf h
  simp only [Cfg.mapWf, Bool.and_eq_true, decide_eq_true_eq] at map
  obtain ⟨⟨hend, -⟩, -⟩ := map
  unfold saveRamOf
  dsimp only
  split
  · exact SaveRam.inv_absent c
  · split
    · exact SaveRam.inv_absent c
    · split
      · exact SaveRam.inv_absent c
      · next hle hfit =>
        unfold oddUp at hfit
        refine ⟨fun _ => ?_, nofun⟩
        simp only [oddUp, BitVec.toNat_ofNat]
        exact ⟨by omega, by omega, by omega, by omega, Memory.table_nil ..⟩

theorem SaveRam.inv_afterReset {c : Cfg} {d : SaveRam} (h : SaveRam.inv c d) (romLen : Nat) :
    SaveRam.inv c (sramAfterReset romLen d) := by
  cases hp : d.present with
  | true => exact h.present hp _ _ id
  | false =>
    obtain rfl := h.2 hp
    exact SaveRam.inv_absent c

theorem Bus.keeps_afterReset (c : Cfg) (b : Bus) : Bus.Keeps c b (busAfterReset c b) := by
  refine ⟨fun hc h => ?_⟩
  obtain ⟨rom, sram, -, -, -, -, -, -, -, patches⟩ := h
  obtain ⟨-, -, ram, zram, data, ctrl, ser, phase, timeout, -⟩ := Bus.inv_fresh hc
  exact ⟨rom, SaveRam.inv_afterReset sram _, ram, zram, data, ctrl, ser, phase, timeout, patches⟩

/-- A cartridge changed: another image, its save RAM, and no patch. -/
theorem Bus.keeps_cartridge (c : Cfg) (b : Bus) {rom : Mem} {romLen : Nat} {sram : SaveRam} (present : Bool)
    (hrom : c.wf = true → 1 ≤ romLen ∧ romLen ≤ c.cartEnd + 1 ∧ Memory.table 0 romLen rom)
    (hsram : c.wf = true → SaveRam.inv c sram) : Bus.Keeps c b
      { b with rom := rom, romLen := romLen, cartPresent := present, sram := sram, patches := [] } :=
  ⟨fun hc ⟨_, _, ram, zram, data, ctrl, ser, phase, timeout, _⟩ =>
    ⟨hrom hc, hsram hc, ram, zram, data, ctrl, ser, phase, timeout, List.Pairwise.nil, nofun⟩⟩

/-! Patches (45_cartridge_host.md R482): a finite map. -/

section
variable {α : Type} {m : Sparse α} {a : Nat} {v : α}

theorem Memory.mem_of_lookup (h : lookup m a = some v) : (a, v) ∈ m := by
  induction m with
  | nil => cases h
  | cons x r ih =>
    simp only [lookup] at h
    split at h
    · next ha =>
      obtain rfl := Option.some.inj h
      exact ha ▸ List.mem_cons_self
    · exact List.mem_cons_of_mem _ (ih h)

theorem Memory.erase_sublist (m : Sparse α) (a : Nat) : (erase m a).Sublist m := by
  induction m with
  | nil => exact .refl _
  | cons x r ih =>
    simp only [erase]
    split
    · exact List.sublist_cons_self ..
    · exact ih.cons_cons x

theorem Memory.mem_insert {c : Nat × α} (h : c ∈ insert m a v) : c = (a, v) ∨ c ∈ m := by
  induction m with
  | nil => exact .inl (List.mem_singleton.mp h)
  | cons x r ih =>
    simp only [insert] at h
    split at h
    · exact List.mem_cons.mp h
    · split at h
      · exact (List.mem_cons.mp h).imp id (List.mem_cons_of_mem x)
      · obtain rfl | hr := List.mem_cons.mp h
        · exact .inr List.mem_cons_self
        · exact (ih hr).imp id (List.mem_cons_of_mem x)

theorem Memory.pairwise_insert (h : m.Pairwise fun x y => x.1 < y.1) :
    (insert m a v).Pairwise fun x y => x.1 < y.1 := by
  induction m with
  | nil => exact List.pairwise_singleton ..
  | cons x r ih =>
    obtain ⟨first, rest⟩ := List.pairwise_cons.mp h
    simp only [insert]
    split
    · next hlt =>
      refine List.pairwise_cons.mpr ⟨fun c hc => ?_, h⟩
      obtain rfl | hr := List.mem_cons.mp hc
      · exact hlt
      · exact Nat.lt_trans hlt (first c hr)
    · split
      · next heq => exact List.pairwise_cons.mpr ⟨fun c hc => heq ▸ first c hc, rest⟩
      · refine List.pairwise_cons.mpr ⟨fun c hc => ?_, ih rest⟩
        obtain rfl | hr := mem_insert hc
        · show x.1 < a
          omega
        · exact first c hr

end

section
variable (c : Cfg) (b : Bus)

/-- A word of the image written, and the patches changed in a way that leaves their form. -/
theorem Bus.keeps_patched {k : Nat} (w : Half) {patches : Sparse Half} (hk : Bus.inv c b → k + 1 < b.romLen)
    (hrise : b.patches.Pairwise (fun x y => x.1 < y.1) → patches.Pairwise fun x y => x.1 < y.1)
    (hmem : ∀ p ∈ patches, p.1 = k ∧ k % 2 = 0 ∨ p ∈ b.patches) :
    Bus.Keeps c b { b with rom := romPutWord k w b.rom, patches := patches } := by
  refine ⟨fun _ h => ?_⟩
  have hlt := hk h
  obtain ⟨⟨pos, fits, rom⟩, sram, ram, zram, data, ctrl, ser, phase, timeout, rise, words⟩ := h
  refine ⟨⟨pos, fits, Memory.table_put _ _ _ (Memory.table_put _ _ _ rom _ _ (by omega)) _ _ hlt⟩, sram, ram, zram,
    data, ctrl, ser, phase, timeout, hrise rise, fun p hp => ?_⟩
  obtain ⟨rfl, even⟩ | hold := hmem p hp
  · exact ⟨even, hlt⟩
  · exact words p hold

theorem Bus.keeps_patchOne (a : Addr) (v : Half) : Bus.Keeps c b (patchOne a v b).2 := by
  unfold patchOne
  dsimp only
  split
  · next w hw =>
    refine Bus.keeps_patched c b w (fun h => ?_) (.sublist (Memory.erase_sublist ..)) fun p hp =>
      .inr ((Memory.erase_sublist ..).subset hp)
    obtain ⟨-, -, -, -, -, -, -, -, -, -, words⟩ := h
    exact (words _ (Memory.mem_of_lookup hw)).2
  · split
    · next hlt =>
      refine Bus.keeps_patched c b v (fun _ => hlt) Memory.pairwise_insert fun p hp =>
        (Memory.mem_insert hp).imp_left fun heq => ?_
      rw [heq]
      exact ⟨rfl, Nat.mul_mod_left ..⟩
    · exact ⟨fun _ => id⟩

theorem Bus.keeps_patchAll (l : List (Addr × Half)) (n : Nat) (b : Bus) : Bus.Keeps c b (patchAll l n b).2 := by
  induction l generalizing n b with
  | nil => exact ⟨fun _ => id⟩
  | cons p l ih => exact (Bus.keeps_patchOne ..).trans (ih _ _)

end

end Sys2Proof.Machine

/-! ### Every operation and every step keeps a good state good. Each part of `State.Inv` is kept whatever the other
parts are, so one pass over the operations serves the whole invariant and each part of it. -/

namespace Sys2Proof.Machine

/-- Each part of a good state (`State.Inv`) that holds of `s` holds of `t`. -/
structure State.Keeps (s t : State) : Prop where
  cfg : t.cfg = s.cfg
  sched : Sched.inv s.cfg s.sched → Sched.inv s.cfg t.sched
  bus : Bus.Keeps s.cfg s.bus t.bus
  vdp : Vdp.Keeps s.cfg s.vdp t.vdp
  snd : Snd.Keeps s.cfg s.snd t.snd

theorem State.Keeps.inv {s t : State} (k : State.Keeps s t) (h : s.Inv) : t.Inv := by
  obtain ⟨hc, sched, bus, tables, caches, snd⟩ := h
  rw [State.Inv, k.cfg]
  exact ⟨hc, k.sched sched, k.bus.inv hc bus, k.vdp.tables hc tables, k.vdp.cacheInv caches, k.snd.inv hc snd⟩

theorem State.Keeps.caches {s t : State} (k : State.Keeps s t) (h : Vdp.cacheInv s.cfg s.vdp) :
    Vdp.cacheInv t.cfg t.vdp := k.cfg ▸ k.vdp.cacheInv h

theorem State.Keeps.refl (s : State) : State.Keeps s s := ⟨rfl, id, .refl .., .refl .., .refl ..⟩

theorem State.Keeps.trans {s t u : State} (h : State.Keeps s t) (k : State.Keeps t u) : State.Keeps s u := by
  obtain ⟨kcfg, ksched, kbus, kvdp, ksnd⟩ := k
  rw [h.cfg] at kcfg ksched kbus kvdp ksnd
  exact ⟨kcfg, ksched ∘ h.sched, h.bus.trans kbus, h.vdp.trans kvdp, h.snd.trans ksnd⟩

/-- The fields of State that are in no group of the invariant play no part in it. -/
theorem State.Keeps.other {s t u : State} (h : State.Keeps s t) (hcfg : u.cfg = t.cfg) (hsched : u.sched = t.sched)
    (hbus : u.bus = t.bus) (hvdp : u.vdp = t.vdp) (hsnd : u.snd = t.snd) : State.Keeps s u :=
  ⟨hcfg.trans h.cfg, hsched ▸ h.sched, hbus ▸ h.bus, hvdp ▸ h.vdp, hsnd ▸ h.snd⟩

theorem State.Keeps.reply {s t : State} (h : State.Keeps s t) (r : Resp) : State.Keeps s (reply r t) :=
  h.other rfl rfl rfl rfl rfl

theorem State.keeps_raiseFault (f : Fault) (s : State) : State.Keeps s (raiseFault f s) :=
  (State.Keeps.refl s).other rfl rfl rfl rfl rfl

section
variable {s : State}

theorem State.keeps_setSched {x : Sched} (h : Sched.inv s.cfg s.sched → Sched.inv s.cfg x) :
    State.Keeps s (setSched s x) := ⟨rfl, h, .refl .., .refl .., .refl ..⟩

theorem State.keeps_setBus {b : Bus} (h : Bus.Keeps s.cfg s.bus b) : State.Keeps s (setBus s b) :=
  ⟨rfl, id, h, .refl .., .refl ..⟩

theorem State.keeps_setVdp {v : Vdp} (h : Vdp.Keeps s.cfg s.vdp v) : State.Keeps s (setVdp s v) :=
  ⟨rfl, id, .refl .., h, .refl ..⟩

theorem State.keeps_setSnd {x : Snd} (h : Snd.Keeps s.cfg s.snd x) : State.Keeps s (setSnd s x) :=
  ⟨rfl, id, .refl .., .refl .., h⟩

theorem OnlyVdp.keeps {t : State} (h : OnlyVdp s t) (k : Vdp.Keeps s.cfg s.vdp t.vdp) : State.Keeps s t := by
  unfold OnlyVdp at h
  rw [h]
  exact State.keeps_setVdp k

end

/-! The bus (40_bus_operations.md) and the VDP operations that reach it. -/

section
variable (s : State)

theorem State.keeps_busRd8 (a : Addr) : State.Keeps s (busRd8 a s).2 :=
  (busRd8_only a s).keeps (busRd8_onlyRead a s).keeps

theorem State.keeps_busRd16 (a : Addr) : State.Keeps s (busRd16 a s).2 :=
  (busRd16_only a s).keeps (busRd16_onlyRead a s).keeps

theorem State.keeps_auxRd8 (a : AuxAddr) : State.Keeps s (auxRd8 a s).2 := by
  unfold auxRd8
  cases auxTarget s.cfg s.bus.bank a with
  | main m => exact State.keeps_busRd8 s m
  | zram | fm | banksel | none => exact .refl s

theorem State.keeps_dmaBusLoop (hi : BitVec 7) (n : Nat) (lo : Half) (s : State) :
    State.Keeps s (dmaBusLoop hi n lo s).2 := by
  induction n generalizing lo s with
  | zero => exact .refl s
  | succ n ih =>
    exact ((State.keeps_busRd16 ..).trans (State.keeps_setVdp (Vdp.keeps_dataUnit ..))).trans (ih _ _)

theorem State.keeps_dmaBus (hi : BitVec 7) : State.Keeps s (dmaBus hi s) :=
  (State.keeps_dmaBusLoop hi _ _ s).trans
    (State.keeps_setVdp ((Vdp.keeps_clearDmaLen ..).trans (Vdp.keeps_putDmaSrc ..)))

theorem State.keeps_dmaStart : State.Keeps s (dmaStart s) := by
  unfold dmaStart
  cases dmaModeOf (vreg s.vdp 23) with
  | bus => exact State.keeps_dmaBus ..
  | fill => exact State.keeps_setVdp (Vdp.keeps_control ..)
  | copy => exact State.keeps_setVdp (Vdp.keeps_dmaCopy ..)

theorem State.keeps_vdpCommand (w : CmdWord) : State.Keeps s (vdpCommand w s) := by
  have fields : State.Keeps s
      (setVdp s { s.vdp with code := cmdCode w, addr := cmdAddr w, fillArmed := false }) :=
    State.keeps_setVdp (Vdp.keeps_control ..)
  unfold vdpCommand
  dsimp only
  split
  · exact fields.trans (State.keeps_dmaStart _)
  · exact fields

theorem State.keeps_ctrlPortWrite16 (w : Half) : State.Keeps s (ctrlPortWrite16 w s) := by
  unfold ctrlPortWrite16
  split
  · exact (State.keeps_setVdp (Vdp.keeps_control ..)).trans (State.keeps_vdpCommand ..)
  · split
    · exact State.keeps_setVdp (Vdp.keeps_regPut ..)
    · exact State.keeps_setVdp (Vdp.keeps_control ..)

theorem State.keeps_dataPortWrite16 (d : Half) : State.Keeps s (dataPortWrite16 d s) :=
  State.keeps_setVdp (Vdp.keeps_vdpDataWrite16 ..)

variable (now : Nat)

theorem State.keeps_psgPortWrite (v : Byte) : State.Keeps s (psgPortWrite now v s) :=
  State.keeps_setSnd (Snd.keeps_forward ..)

theorem State.keeps_fmPortWrite (p : BitVec 2) (v : Byte) : State.Keeps s (fmPortWrite now p v s) :=
  State.keeps_setSnd (Snd.keeps_soundWrite ..)

theorem State.keeps_vdpBlockWrite8 (o : BitVec 5) (v : Byte) : State.Keeps s (vdpBlockWrite8 now o v s) := by
  unfold vdpBlockWrite8
  cases vdpPort o with
  | data => exact State.keeps_dataPortWrite16 ..
  | ctrl => exact State.keeps_ctrlPortWrite16 ..
  | psg => exact State.keeps_psgPortWrite ..
  | none => exact .refl s

theorem State.keeps_ioBlockWrite8 (o : BitVec 5) (v : Byte) : State.Keeps s (ioBlockWrite8 o v s) := by
  unfold ioBlockWrite8
  split
  · exact State.keeps_setBus (Bus.keeps_ioWrite _ _ (Nat.div_lt_of_lt_mul o.isLt) v)
  · exact .refl s

/-- The offset an address decodes to is inside its memory. -/
theorem State.keeps_busWr8 (a : Addr) (v : Byte) : State.Keeps s (busWr8 now a v s) := by
  unfold busWr8
  cases hr : region s.cfg s.bus a with
  | sram o =>
    exact State.keeps_setBus (.of_wf fun hc =>
      have ⟨present, ho⟩ := region_inside hc hr
      Bus.keeps_sramWrite _ _ present ho v)
  | ram o => exact State.keeps_setBus (.of_wf fun hc => Bus.keeps_ramWrite _ _ (region_inside hc hr) v)
  | zram o => exact State.keeps_setBus (.of_wf fun hc => Bus.keeps_zramWrite _ _ (region_inside hc hr) v)
  | fm p => exact State.keeps_fmPortWrite ..
  | banksel => exact State.keeps_setBus (Bus.keeps_bankShift ..)
  | io o => exact State.keeps_ioBlockWrite8 ..
  | sramctl => exact State.keeps_setBus (Bus.keeps_sramCtlWrite ..)
  | vdp o => exact State.keeps_vdpBlockWrite8 ..
  | rom | unmapped => exact .refl s

theorem State.keeps_busWr16 (a : Addr) (w : Half) : State.Keeps s (busWr16 now a w s) := by
  have split : State.Keeps s (splitWr16 now a w s) := (State.keeps_busWr8 ..).trans (State.keeps_busWr8 ..)
  unfold busWr16
  cases region s.cfg s.bus a with
  | vdp o =>
    dsimp only
    cases vdpPort o with
    | data => exact State.keeps_dataPortWrite16 ..
    | ctrl => exact State.keeps_ctrlPortWrite16 ..
    | psg | none => exact split
  | rom | sram | ram | zram | fm | banksel | io | sramctl | unmapped => exact split

theorem State.keeps_auxWr8 (a : AuxAddr) (v : Byte) : State.Keeps s (auxWr8 now a v s) := by
  unfold auxWr8
  cases ht : auxTarget s.cfg s.bus.bank a with
  | zram o => exact State.keeps_setBus (.of_wf fun hc => Bus.keeps_zramWrite _ _ (auxTarget_inside hc ht) v)
  | fm p => exact State.keeps_fmPortWrite ..
  | banksel => exact State.keeps_setBus (Bus.keeps_bankShift ..)
  | main m => exact State.keeps_busWr8 ..
  | none => exact .refl s

theorem State.keeps_intAck (n : Nat) : State.Keeps s (intAck n s).2 := by
  obtain ⟨h, v, f, e⟩ := intAck_only n s
  rw [e]
  exact ⟨rfl, id, .refl .., Vdp.keeps_control .., .refl ..⟩

theorem State.keeps_ioAccess {i : Nat} (hi : i < 16) (k : Access) : State.Keeps s (ioAccess i k s) := by
  cases k with
  | read => exact (State.Keeps.refl s).reply _
  | write v => exact (State.keeps_setBus (Bus.keeps_ioWrite _ _ hi v)).reply _

theorem State.keeps_ioEvenAccess (a : Addr) (k : Access) : State.Keeps s (ioEvenAccess a k s) := by
  cases k <;> exact (State.Keeps.refl s).reply _

end

/-! The engines' calls and the arbiter (41_frame_scheduler.md R280 to R284). -/

section
variable (d : Device) (s : State)

theorem State.keeps_deviceOp (t : Nat) (o : EngOp) : State.Keeps s (deviceOp d t o s) := by
  cases d with
  | main =>
    cases o with
    | rd8 a => exact (State.keeps_busRd8 s a).reply _
    | rd16 a => exact (State.keeps_busRd16 s a).reply _
    | wr8 a v => exact (State.keeps_busWr8 ..).reply _
    | wr16 a v => exact (State.keeps_busWr16 ..).reply _
    | ack n => exact (State.keeps_intAck s _).reply _
    | ard8 | awr8 => exact State.keeps_raiseFault ..
  | aux =>
    cases o with
    | ard8 a => exact (State.keeps_auxRd8 s a).reply _
    | awr8 a v => exact (State.keeps_auxWr8 ..).reply _
    | rd8 | rd16 | wr8 | wr16 | ack => exact State.keeps_raiseFault ..

theorem State.keeps_engineEvent (last : Nat) (e : Event) : State.Keeps s (engineEvent d last e s) := by
  cases e with
  | op t o =>
    rw [engineEvent, engineOp_eq]
    split
    · exact State.keeps_raiseFault ..
    · exact proceed_keeps (P := State.Keeps s) (State.keeps_deviceOp ..) fun h => h.other rfl rfl rfl rfl rfl
  | look => cases d <;> exact (State.Keeps.refl s).other rfl rfl rfl rfl rfl
  | host w => exact (State.Keeps.refl s).other rfl rfl rfl rfl rfl

theorem State.keeps_execCall (b : Nat) : State.Keeps s (execCall d b s).2 := by
  have body : State.Keeps s (callBody d b s).2.2 :=
    callBody_keeps (P := State.Keeps s) (fun _ _ _ h => h.trans (State.keeps_engineEvent ..))
      ((State.Keeps.refl s).other rfl rfl rfl rfl rfl)
  refine proceed_keeps (P := State.Keeps s) body fun h => h.trans ?_
  unfold checkReturn
  split
  · exact State.keeps_raiseFault ..
  · split
    · exact State.keeps_raiseFault ..
    · exact .refl _

theorem State.keeps_executeOp (b : Nat) : State.Keeps s (executeOp d b s) :=
  proceed_keeps (P := State.Keeps s) (State.keeps_execCall ..) fun h => h.reply _

theorem State.keeps_runTo (T : Nat) : State.Keeps s (runTo d T s) :=
  runTo_keeps (P := State.Keeps s) (State.keeps_setSched id) (fun _ _ h => h.trans (State.keeps_execCall ..))
    fun _ _ h => h.trans (State.keeps_setSched id)

theorem State.keeps_runBothTo (T : Device → Nat) : State.Keeps s (runBothTo T s) :=
  proceed_keeps (P := State.Keeps s) (State.keeps_runTo ..) fun h => h.trans (State.keeps_runTo ..)

end

/-! The steps of a line (R264 to R288). -/

theorem wf_putPixels (bpp : Nat) (px : Nat → List Byte) (y n x : Nat) {fb : Mem} (h : Memory.wf 0 fb) :
    Memory.wf 0 (putPixels bpp px y n x fb) := by
  induction n generalizing x fb with
  | zero => exact h
  | succ n ih => exact ih _ (Memory.wf_putList _ _ _ _ h)

theorem wf_drawLine_fb (c : Cfg) (x : Std) (n : Int) (v : Vdp) {fb : Mem} (h : Memory.wf 0 fb) :
    Memory.wf 0 (drawLine c x n v fb).2 := by
  unfold drawLine
  split
  · exact h
  · split <;> exact wf_putPixels _ _ _ _ _ h

section
variable (s : State)

theorem State.keeps_enterSlice (k : Slice) (hb : Bool) : State.Keeps s (enterSlice k hb s) :=
  ⟨rfl, id, .refl .., Vdp.keeps_control .., .refl ..⟩

theorem State.keeps_slices : State.Keeps s (slices s) := by
  have slice (k : Slice) (hb : Bool) (T : Device → Nat) (u : State) :
      State.Keeps u (runBothTo T (enterSlice k hb u)) :=
    (State.keeps_enterSlice ..).trans (State.keeps_runBothTo ..)
  rw [slices_eq]
  refine proceed_keeps (P := State.Keeps s) (proceed_keeps (P := State.Keeps s) (slice ..) fun h => ?_) fun h => ?_
  · exact h.trans (slice ..)
  · exact h.trans (State.keeps_setSched id)

theorem State.keeps_padTimeoutStep : State.Keeps s (padTimeoutStep s) :=
  State.keeps_setBus (Bus.keeps_padTimeouts _ _ (Nat.le_refl _))

theorem State.keeps_padSample : State.Keeps s (padSample s) := ⟨rfl, id, .refl .., .refl .., .refl ..⟩

theorem State.keeps_timerStep : State.Keeps s (timerStep s) := State.keeps_setSnd (Snd.keeps_timerTick ..)

theorem State.keeps_drawStep (n : Int) : State.Keeps s (drawStep n s) :=
  (State.keeps_setSched fun ⟨line, hcnt, palsnap, fb⟩ => ⟨line, hcnt, palsnap, wf_drawLine_fb _ _ _ _ fb⟩).trans
    (State.keeps_setVdp (Vdp.keeps_drawLine ..))

/-- The counter is reloaded from a register, so it stays in its range (R34). -/
theorem reload_bounds (v : Vdp) (r : Nat) : -1 ≤ ((vreg v r).toNat : Int) ∧ ((vreg v r).toNat : Int) ≤ 255 := by
  have byte := (vreg v r).isLt
  omega

theorem State.keeps_hCount : State.Keeps s (hCount s) := by
  unfold hCount
  split
  · exact ⟨rfl, fun ⟨line, _, rest⟩ => ⟨line, reload_bounds .., rest⟩, .refl .., .refl .., .refl ..⟩
  · refine State.keeps_setSched fun ⟨line, ⟨_, high⟩, rest⟩ => ⟨line, ?_, rest⟩
    dsimp only
    omega

theorem State.keeps_hStep : State.Keeps s (hStep s) := by
  unfold hStep
  split
  · exact (State.keeps_hCount s).trans (State.keeps_drawStep ..)
  · exact .refl s

theorem State.keeps_beforeSlices : State.Keeps s (beforeSlices s) :=
  (((State.keeps_padTimeoutStep s).trans (State.keeps_padSample _)).trans (State.keeps_timerStep _)).trans
    (State.keeps_hStep _)

theorem State.keeps_vblankBoundary : State.Keeps s (vblankBoundary s) :=
  ⟨rfl, id, .refl .., Vdp.keeps_control .., .refl ..⟩

theorem snapshotBytes_length (c : Cfg) (v : Vdp) : (snapshotBytes c v).length = 256 :=
  length_flatMap_range (snapshotRow_length c v) 64

theorem State.keeps_snapshotStep : State.Keeps s (snapshotStep s) :=
  State.keeps_setSched fun ⟨line, hcnt, _, fb⟩ =>
    ⟨line, hcnt, Memory.table_ofList _ _ _ (Nat.le_of_eq (snapshotBytes_length ..)), fb⟩

variable {s}

/-- The line count stays in its range while a line is left. -/
theorem State.keeps_nextLine (h : s.sched.line < s.cfg.linesTotal.get s.sched.std) : State.Keeps s (nextLine s) :=
  State.keeps_setSched fun ⟨_, rest⟩ => ⟨h, rest⟩

theorem State.keeps_lineTail (h : s.sched.line < s.cfg.linesTotal.get s.sched.std) : State.Keeps s (lineTail s) := by
  have boundary := State.keeps_vblankBoundary s
  rw [lineTail_eq]
  split
  · split
    · exact (boundary.trans (State.keeps_snapshotStep _)).trans (State.keeps_nextLine h)
    · exact (State.keeps_snapshotStep s).trans (State.keeps_nextLine h)
  · split
    · exact boundary.trans (State.keeps_nextLine h)
    · exact State.keeps_nextLine h

/-- The position does not change before the end of the line. -/
theorem State.keeps_lineStep (h : s.sched.line < s.cfg.linesTotal.get s.sched.std) : State.Keeps s (lineStep s) := by
  have line := slices_keepsLine (beforeSlices s)
  rw [lineStep_eq_proceed]
  refine proceed_keeps (P := State.Keeps s) ((State.keeps_beforeSlices s).trans (State.keeps_slices _)) fun k =>
    k.trans (State.keeps_lineTail ?_)
  rwa [line.line, line.cfg, line.std, beforeSlices_line, beforeSlices_cfg, beforeSlices_std]

variable (s)

theorem State.keeps_lineStepIfLeft : State.Keeps s (lineStepIfLeft s) := by
  unfold lineStepIfLeft
  split
  · next h => exact State.keeps_lineStep h
  · exact .refl s

/-! A frame (R264, R266, R290). -/

theorem State.keeps_lineLoop (n : Nat) (s : State) : State.Keeps s (lineLoop n s) := by
  induction n generalizing s with
  | zero => exact .refl s
  | succ n ih =>
    exact proceed_keeps (P := State.Keeps s) (State.keeps_lineStepIfLeft s) fun h => h.trans (ih _)

/-- A frame starts at line 0, whatever the standard, with the counter at VR[10]. -/
theorem State.keeps_frameStart : State.Keeps s (frameStart s) :=
  ⟨rfl, fun ⟨_, _, rest⟩ => ⟨Nat.zero_le _, reload_bounds .., rest⟩, .refl .., Vdp.keeps_control ..,
    Snd.keeps_soundFrameStart ..⟩

theorem State.keeps_finalizeStep : State.Keeps s (finalizeStep s).2 := by
  have held : Snd.Keeps s.cfg s.snd (timerRebase (frameUs s) { holdToEnd s.cfg s.snd with synthLog := [] }) :=
    ((Snd.keeps_holdToEnd ..).trans (Snd.keeps_synthLog ..)).trans (Snd.keeps_timerRebase ..)
  have sampled : State.Keeps s { (sampleMute s).2 with synths := s.synths + 1 } :=
    (State.Keeps.refl s).other rfl rfl rfl rfl rfl
  rw [finalizeStep_state]
  exact sampled.trans (State.keeps_setSnd held)

theorem State.keeps_frameEnd : State.Keeps s (frameEnd s) := by
  obtain ⟨r, hr⟩ := frameEnd_state s
  rw [hr]
  refine ((State.keeps_finalizeStep s).trans (State.keeps_setSched ?_)).reply r
  exact id

theorem State.keeps_runFrame : State.Keeps s (runFrame s) := by
  have sampled : State.Keeps s (sampleCancel s).2 := (State.Keeps.refl s).other rfl rfl rfl rfl rfl
  rw [runFrame_eq]
  split
  · exact sampled.reply _
  · exact proceed_keeps (P := State.Keeps s)
      (sampled.trans (((State.keeps_frameStart _).reply _).trans (State.keeps_lineLoop ..)))
      fun h => h.trans (State.keeps_frameEnd _)

/-! The host (45_cartridge_host.md). -/

theorem State.keeps_systemReset : State.Keeps s (systemReset s) :=
  ⟨rfl, fun _ => Sched.inv_fresh .., Bus.keeps_afterReset .., Vdp.keeps_fresh .., ⟨fun _ _ => Snd.inv_fresh ..⟩⟩

theorem pairwise_of_rising {m : Mem} (h : rising m = true) : m.Pairwise fun x y => x.1 < y.1 := by
  induction m with
  | nil => exact .nil
  | cons x r ih =>
    cases r with
    | nil => exact List.pairwise_singleton ..
    | cons y r =>
      simp only [rising, Bool.and_eq_true, decide_eq_true_eq] at h
      have rest := ih h.2
      refine List.pairwise_cons.mpr ⟨fun c hc => ?_, rest⟩
      obtain rfl | hr := List.mem_cons.mp hc
      · exact h.1
      · exact Nat.lt_trans h.1 ((List.pairwise_cons.mp rest).1 c hr)

theorem Image.table_of_wf {g : Image} (h : g.wf = true) : Memory.table 0 g.len g.bytes := by
  simp only [Image.wf, Bool.and_eq_true, List.all_eq_true, decide_eq_true_eq] at h
  obtain ⟨⟨-, bytes⟩, rise⟩ := h
  exact ⟨⟨pairwise_of_rising rise, fun c hc => (bytes c hc).2⟩, fun c hc => (bytes c hc).1⟩

theorem State.keeps_hostLoad {g : Image} (hg : g.wf = true) : State.Keeps s (hostLoad g s) := by
  unfold hostLoad
  split
  · next hload =>
    simp only [loadable, Bool.and_eq_true, decide_eq_true_eq] at hload
    obtain ⟨⟨pos, -⟩, fits⟩ := hload
    exact ((State.keeps_setBus (Bus.keeps_cartridge _ _ true (fun _ => ⟨pos, fits, Image.table_of_wf hg⟩)
      fun hc => SaveRam.inv_saveRamOf hc g)).trans (State.keeps_systemReset _)).reply _
  · exact (State.Keeps.refl s).reply _

theorem State.keeps_hostUnplug : State.Keeps s (hostUnplug s) := by
  have stub (hc : s.cfg.wf = true) :=
    have ⟨rom, _⟩ := Bus.inv_fresh hc
    rom
  exact ((State.keeps_setBus (Bus.keeps_cartridge _ _ false stub fun _ => SaveRam.inv_absent _)).trans
    (State.keeps_systemReset _)).reply _

theorem State.keeps_hostPatch (l : List (Addr × Half)) : State.Keeps s (hostPatch l s) :=
  (State.keeps_setBus (Bus.keeps_patchAll ..)).reply _

end

/-! The operations. -/

section
variable {s t : State} {f : State → State}

theorem State.Keeps.of_guarded (h : guarded s f = .next t) (hf : ∀ x, State.Keeps x (f x)) : State.Keeps s t := by
  obtain ⟨-, rfl⟩ := guarded_next.mp h
  exact hf s

theorem State.Keeps.of_guardedHost (h : guardedHost s f = .next t) (hf : ∀ x, State.Keeps x (f x)) :
    State.Keeps s t := by
  obtain ⟨-, -, rfl⟩ := guardedHost_next.mp h
  exact hf s

end

/-- Every operation keeps what there is of a good state; LOAD needs its image to be one (R472). The rows are grouped by
the function that gives them their meaning. -/
theorem exec_keeps {i : Instr} {s t : State} (hload : ∀ g, i = .hostLoad g → g.wf = true) (h : exec i s = .next t) :
    State.Keeps s t := by
  unfold exec at h
  cases i with
  | rd8 _ a | rd8Sram _ a | rd8Rom _ a | rd8Cartopen _ a | rd8Zram _ a | rd8Fm _ a | rd8Banksel _ a | rd8Io _ a
  | rd8Sramctl _ a | rd8Vdp _ a | rd8Ram _ a | rd8Open _ a | rd8Vdpdata _ a | rd8Vdpctrl _ a | rd8Psg _ a
  | rd8Vdpnone _ a | rd8FmAny _ a => exact .of_guarded h fun x => (State.keeps_busRd8 x a).reply _
  | wr8 | wr8Sram | wr8Rom | wr8Cartopen | wr8Zram | wr8Fm | wr8Banksel | wr8Io | wr8Sramctl | wr8Vdp | wr8Ram
  | wr8Open | wr8Vdpdata | wr8Vdpctrl | wr8Psg | wr8Vdpnone | wr8FmAddr0 | wr8FmData0 | wr8FmAddr1 | wr8FmData1 =>
    exact .of_guarded h fun _ => (State.keeps_busWr8 ..).reply _
  | rd16 _ a | rd16Vdpdata _ a | rd16Vdpctrl _ a =>
    exact .of_guarded h fun x => (State.keeps_busRd16 x a).reply _
  | wr16 | wr16Vdpdata | wr16Vdpctrl => exact .of_guarded h fun _ => (State.keeps_busWr16 ..).reply _
  | ardZram a | ardFm a | ardBanksel a | ardVdpwin a | ardBankwin a | ardNone a =>
    exact .of_guarded h fun x => (State.keeps_auxRd8 x a).reply _
  | awrZram | awrFm | awrBanksel | awrVdpwin | awrBankwin | awrNone =>
    exact .of_guarded h fun _ => (State.keeps_auxWr8 ..).reply _
  | ioVersion k | ioData0 k | ioData1 k | ioData2 k | ioCtrl0 k | ioCtrl1 k | ioCtrl2 k | ioSer0 k | ioSer1 k
  | ioSer2 k | ioSer3 k | ioSer4 k | ioSer5 k | ioSer6 k | ioSer7 k | ioSer8 k =>
    exact .of_guarded h fun x => State.keeps_ioAccess x (by decide) k
  | ioEven a k => exact .of_guarded h fun x => State.keeps_ioEvenAccess x a k
  | sramctlValue => exact .of_guarded h fun _ => (State.keeps_setBus (Bus.keeps_sramCtlWrite ..)).reply _
  | bankselValue => exact .of_guarded h fun _ => (State.keeps_setBus (Bus.keeps_bankShift ..)).reply _
  | fmregMode | fmregDacdata | fmregDacen | fmregTaHi | fmregTaLo | fmregTb | fmregOther =>
    exact .of_guarded h fun _ => (State.keeps_setSnd (Snd.keeps_soundRegWrite ..)).reply _
  | modeValue => exact .of_guarded h fun _ => (State.keeps_setSnd (Snd.keeps_modeWrite ..)).reply _
  | dacenValue => exact .of_guarded h fun _ => (State.keeps_setSnd (Snd.keeps_dacEnable ..)).reply _
  | dacdataValue => exact .of_guarded h fun _ => (State.keeps_setSnd (Snd.keeps_dacData ..)).reply _
  | psgValue => exact .of_guarded h fun _ => (State.keeps_psgPortWrite ..).reply _
  | regset | cmd1 | cmd2 => exact .of_guarded h fun _ => (State.keeps_ctrlPortWrite16 ..).reply _
  | command | modeVramRd | modeVramWr | modeCramWr | modeVsramRd | modeVsramWr | modeCramRd | modeInvalid | dmaflag =>
    exact .of_guarded h fun _ => (State.keeps_vdpCommand ..).reply _
  | dmaBus => exact .of_guarded h fun _ => (State.keeps_dmaBus ..).reply _
  | dmastart => exact .of_guarded h fun _ => (State.keeps_dmaStart _).reply _
  | dmaFill => exact .of_guarded h fun _ => (State.keeps_setVdp (Vdp.keeps_dmaFill ..)).reply _
  | dmaCopy => exact .of_guarded h fun _ => (State.keeps_setVdp (Vdp.keeps_dmaCopy ..)).reply _
  | vdataWr => exact .of_guarded h fun _ => (State.keeps_dataPortWrite16 ..).reply _
  | vdataRd | vstat => exact .of_guarded h fun _ => (State.keeps_setVdp (Vdp.keeps_control ..)).reply _
  | execute d b => exact .of_guarded h (State.keeps_executeOp d · b)
  | ackV | ackH | ackSpurious => exact .of_guarded h fun x => (State.keeps_intAck x _).reply _
  | runframe => exact .of_guarded h State.keeps_runFrame
  | frameend => exact .of_guarded h State.keeps_frameEnd
  | finalize => exact .of_guarded h fun x => (State.keeps_finalizeStep x).reply _
  | framestart => exact .of_guarded h fun x => (State.keeps_frameStart x).reply _
  | linestep => exact .of_guarded h fun x => (State.keeps_lineStepIfLeft x).reply _
  | padtimeout => exact .of_guarded h fun x => (State.keeps_padTimeoutStep x).reply _
  | padsample => exact .of_guarded h fun x => (State.keeps_padSample x).reply _
  | timerstep | timertick => exact .of_guarded h fun x => (State.keeps_timerStep x).reply _
  | hstep => exact .of_guarded h fun x => (State.keeps_hStep x).reply _
  | slices => exact .of_guarded h fun x => (State.keeps_slices x).reply _
  | snapshot => exact .of_guarded h fun x => (State.keeps_snapshotStep x).reply _
  | vblankboundary => exact .of_guarded h fun x => (State.keeps_vblankBoundary x).reply _
  | runto d T => exact .of_guarded h fun x => (State.keeps_runTo d x T).reply _
  | drawline n => exact .of_guarded h fun x => (State.keeps_drawStep x n).reply _
  | soundframestart => exact .of_guarded h fun _ => (State.keeps_setSnd (Snd.keeps_soundFrameStart ..)).reply _
  | timerrebase => exact .of_guarded h fun _ => (State.keeps_setSnd (Snd.keeps_timerRebase ..)).reply _
  | hostLoad g => exact .of_guardedHost h fun x => State.keeps_hostLoad x (hload g rfl)
  | hostUnplug => exact .of_guardedHost h State.keeps_hostUnplug
  | hostPatch l => exact .of_guardedHost h fun x => State.keeps_hostPatch x l
  | hostReset => exact .of_guardedHost h fun x => (State.keeps_systemReset x).reply _
  | hostSetpad | hostSetmute | hostSetcancel | hostSetpal =>
    exact .of_guarded h fun x => (State.Keeps.refl x).other rfl rfl rfl rfl rfl

/-- What the decoder accepts is well formed. -/
theorem wf_of_decode {bs rest : List Byte} {i : Instr} (h : decode bs = .ok (i, rest)) : i.wf = true := by
  unfold decode decodeRow at h
  split at h
  · cases h
  · split at h
    · cases h
    · split at h
      · cases h
      · split at h
        · split at h
          · cases h
          · split at h
            · next hwf =>
              obtain ⟨rfl, -⟩ := Prod.mk.inj (Except.ok.inj h)
              exact hwf
            · cases h
        · cases h

theorem image_wf_of_wf {g : Image} (h : (Instr.hostLoad g).wf = true) : g.wf = true := by
  have operands := Laws.RowReader.operandsWf_of_wf h
  simp only [operandsWf, Bool.and_eq_true] at operands
  exact operands.1

/-- Settles O6: a step runs a frame or an operation the decoder accepted, whose image, if it is LOAD, is one. -/
theorem stepKeepsGoodStates : Obligations.StepKeepsGoodStates := by
  intro s t hs h
  unfold step at h
  split at h
  · exact (exec_keeps (i := .runframe) (fun _ => nofun) h).inv hs
  · split at h
    · next i rest hdecode =>
      have image (g : Image) (hi : i = .hostLoad g) : g.wf = true := image_wf_of_wf (hi ▸ wf_of_decode hdecode)
      exact (exec_keeps image h).inv hs
    · cases h

/-- Settles O7: after a reset nothing is claimed; LOAD resets the VDP or leaves it, and every other operation keeps the
two halves of the invariant. -/
theorem cacheInvariant : Obligations.CacheInvariant := by
  refine ⟨Vdp.cacheInv_fresh, fun i s t hs h => ?_⟩
  by_cases hload : ∃ g, i = .hostLoad g
  · obtain ⟨g, rfl⟩ := hload
    obtain ⟨-, -, rfl⟩ := guardedHost_next.mp h
    unfold hostLoad
    split
    · exact Vdp.cacheInv_fresh _
    · exact hs
  · exact (exec_keeps (fun g hi => absurd ⟨g, hi⟩ hload) h).caches hs

end Sys2Proof.Machine

/-! ### A drawn line (43_vdp_compositor.md R383 to R406): the pixels it writes, their colours, the sprites' order. -/

namespace Sys2Proof.Machine

/-! Pixels in the frame buffer (R400). -/

theorem getD_of_lt {α : Type} {l : List α} {k : Nat} (h : k < l.length) (d : α) : l.getD k d = l[k] := by
  rw [List.getD_eq_getElem?_getD, List.getElem?_eq_getElem h, Option.getD_some]

section
variable {α : Type} [DecidableEq α] {d : α}

/-- A list written from `a` on leaves the other indices. -/
theorem Memory.get_putList_out {vs : List α} {m : Sparse α} {a j : Nat} (h : j < a ∨ a + vs.length ≤ j) :
    get d (putList d m a vs) j = get d m j := by
  induction vs generalizing m a with
  | nil => rfl
  | cons v vs ih =>
    rw [List.length_cons] at h
    rw [putList, ih (by omega), get_put_ne d m v (by omega)]

theorem Memory.get_putList {vs : List α} {m : Sparse α} (hm : wf d m) (a : Nat) {k : Nat} (h : k < vs.length) :
    get d (putList d m a vs) (a + k) = vs[k] := by
  induction vs generalizing m a k with
  | nil => cases h
  | cons v vs ih =>
    cases k with
    | zero => rw [putList, get_putList_out (by omega), Nat.add_zero, get_put_self d m hm, List.getElem_cons_zero]
    | succ k =>
      rw [putList, ← Nat.add_assoc, Nat.add_right_comm, ih (wf_put d m hm a v) _ (Nat.lt_of_succ_lt_succ h),
        List.getElem_cons_succ]

end

section
variable {bpp : Nat} {px : Nat → List Byte} (hpx : ∀ x, (px x).length = bpp) (y : Nat)
include hpx

theorem get_putPixels_out {n x j : Nat} {fb : Mem}
    (h : j < (y * Cfg.fbW + x) * bpp ∨ (y * Cfg.fbW + x + n) * bpp ≤ j) :
    Memory.get 0 (putPixels bpp px y n x fb) j = Memory.get 0 fb j := by
  induction n generalizing x fb with
  | zero => rfl
  | succ n ih =>
    have first := Nat.add_one_mul (y * Cfg.fbW + x) bpp
    have last : (y * Cfg.fbW + x + 1) * bpp ≤ (y * Cfg.fbW + x + (n + 1)) * bpp := Nat.mul_le_mul_right bpp (by omega)
    rw [putPixels, ih, Memory.get_putList_out]
    · rw [hpx]
      omega
    · rw [← Nat.add_assoc, Nat.add_assoc _ 1 n, Nat.add_comm 1 n]
      omega

/-- Each pixel of the stretch has its bytes in its own place. -/
theorem get_putPixels {n x z k : Nat} {fb : Mem} (hfb : Memory.wf 0 fb) (hlo : x ≤ z) (hhi : z < x + n) (hk : k < bpp) :
    Memory.get 0 (putPixels bpp px y n x fb) ((y * Cfg.fbW + z) * bpp + k) = (px z).getD k 0 := by
  induction n generalizing x fb with
  | zero => omega
  | succ n ih =>
    obtain rfl | hlt := Nat.eq_or_lt_of_le hlo
    · have next := Nat.add_one_mul (y * Cfg.fbW + x) bpp
      have hlen : k < (px x).length := hpx x ▸ hk
      rw [putPixels, get_putPixels_out hpx y (.inl (by rw [← Nat.add_assoc]; omega)), Memory.get_putList hfb _ hlen,
        getD_of_lt hlen]
    · exact ih (Memory.wf_putList _ _ _ _ hfb) hlt (by omega)

end

/-- A byte of the stretch is a byte of one of its pixels. -/
theorem pixel_of_byte {bpp p n j : Nat} (hlo : p * bpp ≤ j) (hhi : j < (p + n) * bpp) :
    ∃ z k, z < n ∧ k < bpp ∧ j = (p + z) * bpp + k := by
  have hpos : 0 < bpp := Nat.pos_of_mul_pos_left (Nat.zero_lt_of_lt hhi)
  have first : p ≤ j / bpp := (Nat.le_div_iff_mul_le hpos).mpr hlo
  have last : j / bpp < p + n := (Nat.div_lt_iff_lt_mul hpos).mpr hhi
  refine ⟨j / bpp - p, j % bpp, by omega, Nat.mod_lt _ hpos, ?_⟩
  rw [Nat.add_sub_cancel' first, Nat.mul_comm, Nat.div_add_mod]

/-- The width of a drawn line: the reference one (R512) or the configuration's, up to the buffer's (logs 26, 34). -/
theorem drawnW_eq (c : Cfg) (v : Vdp) : drawnW c v =
    match c.lineW with
    | none => if (vreg v 12).getLsbD 0 then 320 else 256
    | some w => min (w.getD (vreg v 12).toNat 0) 320 := by
  unfold drawnW lineW
  cases c.lineW with
  | none => dsimp only; split <;> rfl
  | some w => rfl

/-- The picture's lines are those from the first Active one to the v-blank (R38). -/
theorem Cfg.fbLines_eq {c : Cfg} (h : c.wf = true) (x : Std) :
    (c.fbLines x : Int) = c.vblankStart.get x - c.activeStart.get x := by
  have hstd := stdWf_of_wf h x
  simp only [Cfg.stdWf, Bool.and_eq_true, decide_eq_true_eq] at hstd
  obtain ⟨⟨⟨⟨⟨⟨⟨hactive, -⟩, -⟩, -⟩, -⟩, -⟩, -⟩, -⟩ := hstd
  exact Int.ofNat_sub (Nat.le_of_lt hactive)

section
variable {c : Cfg} {x : Std} {n : Int} (v : Vdp) (fb : Mem)

theorem drawLine_outside (h : n < 0 ∨ c.fbLines x ≤ n) : drawLine c x n v fb = (v, fb) := if_pos h

variable {v} (hlo : 0 ≤ n) (hhi : n < c.fbLines x)
include hlo hhi

theorem drawLine_blank (h : dispEn v = false) : drawLine c x n v fb =
    (v, putPixels c.bpp (fun _ => List.replicate c.bpp 0) n.toNat (drawnW c v) 0 fb) := by
  rw [drawLine, if_neg (by omega), h]
  rfl

theorem drawLine_shown (h : dispEn v = true) : drawLine c x n v fb =
    (refreshCaches c v, putPixels c.bpp
      (fun x => palEntry c (refreshCaches c v) ((composite c (refreshCaches c v) x n.toNat).toNat % c.cramN))
      n.toNat (drawnW c v) 0 fb) := by
  rw [drawLine, if_neg (by omega), h]
  rfl

end

/-- Settles O56: outside the picture nothing is drawn; a blanked line is its pixels' zero bytes. -/
theorem blankLine : Obligations.BlankLine := by
  intro s n hready hfb lines W
  have hlines : (s.cfg.fbLines s.sched.std : Int) = lines := Cfg.fbLines_eq hready.1 s.sched.std
  have hW : drawnW s.cfg s.vdp = W := drawnW_eq s.cfg s.vdp
  rw [exec_drawline hready, drawStep]
  refine ⟨fun hout => ?_, fun hlo hhi hoff => ?_⟩
  · rw [drawLine_outside _ _ (hlines ▸ hout)]
    rfl
  · rw [drawLine_blank _ hlo (hlines ▸ hhi) hoff, hW]
    refine ⟨_, rfl, fun j => ?_⟩
    have zeros (x : Nat) : (List.replicate s.cfg.bpp (0 : Byte)).length = s.cfg.bpp := List.length_replicate
    split
    · next hin =>
      obtain ⟨z, k, hz, hk, rfl⟩ := pixel_of_byte hin.1 hin.2
      refine (get_putPixels zeros n.toNat hfb (Nat.zero_le z) (by omega) hk).trans ?_
      rw [getD_of_lt (by rwa [List.length_replicate]), List.getElem_replicate]
    · next hout => exact get_putPixels_out zeros n.toNat (by rw [Cfg.fbW, Nat.add_zero]; omega)

end Sys2Proof.Machine

/-! ### The colours of a drawn line (43_vdp_compositor.md R383 to R406): the sprites' order, what the six passes leave,
the output pixel. -/

namespace Sys2Proof.Machine

/-! The sprites' order (R390). -/

section
variable {c : Cfg} {v : Vdp}

theorem spriteLink_eq (h : 0 < c.vramSize) (i : Nat) : spriteLink c v i = (Memory.get 0 v.vram
    (((vreg v 5).toNat % 128 * 512 % c.vramSize + 8 * i + 3) % c.vramSize)).toNat % 128 := by
  have low (x : Byte) : (field x 0 7).toNat = x.toNat % 128 := by simp [field, BitVec.extractLsb'_toNat]
  rw [spriteLink, low, satBase, low, vramGet_of_lt (Nat.mod_lt _ h)]

theorem spriteChain_head (n i : Nat) : (spriteChain c v (n + 1) i).head? = some i := by
  rw [spriteChain]
  split <;> rfl

/-- Each entry but the last is followed by its link; the last one has no link to follow, or the order is full. -/
theorem spriteChain_linked (n i j a : Nat) (h : (spriteChain c v n i)[j]? = some a) :
    (∀ b, (spriteChain c v n i)[j + 1]? = some b →
      b = spriteLink c v a ∧ spriteLink c v a ≠ 0 ∧ spriteLink c v a < c.satMax) ∧
    ((spriteChain c v n i)[j + 1]? = none →
      (spriteChain c v n i).length = n ∨ spriteLink c v a = 0 ∨ c.satMax ≤ spriteLink c v a) := by
  induction n generalizing i j with
  | zero => cases h
  | succ n ih =>
    simp only [spriteChain] at h ⊢
    split at h
    · next hstop =>
      rw [if_pos hstop]
      cases j with
      | zero =>
        obtain rfl := Option.some.inj h
        exact ⟨nofun, fun _ => .inr hstop⟩
      | succ j => cases h
    · next hgo =>
      rw [if_neg hgo]
      cases j with
      | zero =>
        obtain rfl := Option.some.inj h
        cases n with
        | zero => exact ⟨nofun, fun _ => .inl rfl⟩
        | succ n =>
          have head := spriteChain_head (c := c) (v := v) n (spriteLink c v i)
          rw [List.head?_eq_getElem?] at head
          rw [List.getElem?_cons_succ, head]
          refine ⟨fun b hb => ?_, nofun⟩
          obtain rfl := Option.some.inj hb
          exact ⟨rfl, by omega⟩
      | succ j =>
        rw [List.getElem?_cons_succ] at h ⊢
        obtain ⟨next, last⟩ := ih _ _ h
        exact ⟨next, fun hnone => (last hnone).imp_left (congrArg (· + 1))⟩

end

/-! The six passes (R402). -/

/-- A pixel of a layer shows in the passes of priority `p`: it has that priority and is no index-0 pixel. -/
abbrev Shows (p : Bool) (q : BitVec 6 × Bool) : Prop := q.2 = p ∧ field q.1 0 4 ≠ 0

section
variable (q : BitVec 6 × Bool)

theorem shows_sprite (p : Bool) : (decide (q.2 = p) && !isIndex0 q.1) = decide (Shows p q) := by
  simp [Shows, isIndex0]

theorem shows_low : (!q.2 && !isIndex0 q.1) = decide (Shows false q) := by simp [Shows, isIndex0]

theorem shows_high : (q.2 && !isIndex0 q.1) = decide (Shows true q) := by simp [Shows, isIndex0]

/-- The first pass lays the background on the background colour. -/
theorem background_pass (bc : BitVec 6) :
    (if !q.2 then (if isIndex0 q.1 then bc else q.1) else bc) = if Shows false q then q.1 else bc := by
  obtain ⟨ci, high⟩ := q
  cases high <;> cases h : isIndex0 ci <;> simp_all [Shows, isIndex0]

end

/-- A sprite pass leaves the front-most sprite that shows, else what was there. -/
theorem sprPass_eq (spr : Nat → Option (BitVec 6 × Bool)) (p : Bool) (order : List Nat) (bc : BitVec 6) :
    sprPass spr p order bc = ((order.filterMap spr).find? fun q => decide (Shows p q)).elim bc Prod.fst := by
  induction order with
  | nil => rfl
  | cons i rest ih =>
    rw [sprPass]
    cases hi : spr i with
    | none =>
      rw [List.filterMap_cons_none hi]
      exact ih
    | some q =>
      rw [List.filterMap_cons_some hi, List.find?_cons]
      simp only [shows_sprite]
      cases decide (Shows p q)
      · exact ih
      · rfl

/-- What the passes leave: of the layers that show, the high-priority ones first, each time the front-most sprite, the
foreground, the background; else the background colour. -/
theorem compositeOf_eq (b f : BitVec 6 × Bool) (spr : Nat → Option (BitVec 6 × Bool)) (order : List Nat)
    (bc : BitVec 6) : compositeOf b f spr order bc =
      ((order.filterMap spr).find? fun q => decide (Shows true q)).elim
        (if Shows true f then f.1 else if Shows true b then b.1 else
          ((order.filterMap spr).find? fun q => decide (Shows false q)).elim
            (if Shows false f then f.1 else if Shows false b then b.1 else bc) Prod.fst) Prod.fst := by
  simp only [compositeOf, sprPass_eq, background_pass, shows_low, shows_high, decide_eq_true_eq]

/-! The caches of a drawn line (R400), and what does not depend on them. -/

section
variable {c : Cfg} {v : Vdp}

theorem refreshPalette_only : refreshPalette c v =
    { v with
      dirtyCram := (refreshPalette c v).dirtyCram
      dirtyPalette := false
      palCache := (refreshPalette c v).palCache } := by
  unfold refreshPalette
  split
  · rfl
  · next h => rw [← Bool.eq_false_iff.mpr h]

theorem refreshSprites_only (h : Vdp.spriteInv c v) : refreshSprites c v =
    { v with
      dirtyVram := (refreshSprites c v).dirtyVram
      dirtySprite := false
      sprOrder := spriteOrder c v } := by
  unfold refreshSprites
  split
  · rfl
  · next hclean =>
    have clear := Bool.eq_false_iff.mpr hclean
    rw [← (h clear).1, ← clear]

/-- A drawn line leaves both dirty bits clear, and the sprites in the order of R390. -/
theorem refreshCaches_only (h : Vdp.cacheInv c v) : refreshCaches c v =
    { v with
      dirtyVram := (refreshCaches c v).dirtyVram
      dirtyCram := (refreshCaches c v).dirtyCram
      dirtyPalette := false
      dirtySprite := false
      palCache := (refreshCaches c v).palCache
      sprOrder := spriteOrder c v } := by
  have ⟨_, sprites⟩ := Vdp.cacheInv_iff.mp h
  have order : spriteOrder c (refreshPalette c v) = spriteOrder c v := by
    rw [refreshPalette_only]
    exact spriteOrder_congr rfl rfl
  rw [refreshCaches_eq, refreshSprites_only ((Vdp.keeps_refreshPalette c v).sprites sprites), order,
    refreshPalette_only]

end

/-- The layer functions read the registers, the video RAM and the vertical scroll RAM only (R381), so the colours of a
line are those of the memories as they were, with the sprites in the order of R390. -/
theorem composite_refreshCaches {c : Cfg} {v : Vdp} (h : Vdp.cacheInv c v) (x y : Nat) :
    composite c (refreshCaches c v) x y = compositeOf (bgPixel c v x y) (fgPixel c v x y)
      (fun i => sprPixel c v i x y) (spriteOrder c v) (bgColour v) := by
  rw [refreshCaches_only h]
  rfl

/-! The output pixel (R383, R384), read from the palette cache. -/

/-- A valid palette cache holds the output pixel of each colour. -/
theorem palEntry_eq_pixelOf {c : Cfg} (hc : c.wf = true) {v : Vdp}
    (h : v.palCache = Memory.ofList 0 0 (paletteBytes c v)) {i : Nat} (hi : i < c.cramN) :
    palEntry c v i = pixelOf c.bpp i (Memory.get 0 v.cram i) := by
  obtain ⟨hpos, hmax⟩ := Cfg.bpp_bounds hc
  have length (i : Nat) := pixelOf_length hpos hmax i (Memory.get 0 v.cram i)
  have entry : (palEntry c v i).length = c.bpp := by simp [palEntry]
  refine List.ext_getElem (entry.trans (length i).symm) fun k hk hk' => ?_
  have row : (paletteBytes c v)[c.bpp * i + k]? = some (pixelOf c.bpp i (Memory.get 0 v.cram i))[k] :=
    (getElem?_flatMap_range length hi (entry ▸ hk)).trans (List.getElem?_eq_getElem hk')
  obtain ⟨hin, hbyte⟩ := List.getElem?_eq_some_iff.mp row
  simp only [palEntry, List.getElem_map, List.getElem_range, if_pos hi, h]
  rw [Nat.mul_comm, Memory.get_ofList_zero 0 _ hin, hbyte]

theorem pixelOf_one {i : Nat} (h : i < 256) (d : Half) : pixelOf 1 i d = [BitVec.ofNat 8 i] :=
  congrArg (fun b => [b]) (if_pos h)

/-- Settles O57: the caches are refreshed first, so each pixel is the output pixel of what the six passes leave of the
VDP's memories. -/
theorem drawnLine : Obligations.DrawnLine := by
  intro s n hready hcache hfb hlo hhi hshown W size link solid
  have hlines := Cfg.fbLines_eq hready.1 s.sched.std
  have hW : drawnW s.cfg s.vdp = W := drawnW_eq s.cfg s.vdp
  have only := refreshCaches_only hcache
  have valid := (Vdp.keeps_refreshCaches s.cfg s.vdp).cacheInv hcache
  have palette : (refreshCaches s.cfg s.vdp).palCache =
      Memory.ofList 0 0 (paletteBytes s.cfg (refreshCaches s.cfg s.vdp)) := valid.1 (by rw [only])
  have cram : (refreshCaches s.cfg s.vdp).cram = s.vdp.cram := by rw [only]
  have draw := exec_drawline hready n
  rw [drawStep, drawLine_shown s.sched.fb hlo (hlines ▸ hhi) hshown, hW] at draw
  have length (x : Nat) : (palEntry s.cfg (refreshCaches s.cfg s.vdp)
      ((composite s.cfg (refreshCaches s.cfg s.vdp) x n.toNat).toNat % s.cfg.cramN)).length = s.cfg.bpp := by
    simp [palEntry]
  refine ⟨_, spriteOrder s.cfg s.vdp, draw, ?_, valid, ⟨spriteChain_head _ _, spriteOrder_length_le _ _, ?_⟩, ?_, ?_⟩
  · exact congrArg (fun v => reply .none (setVdp (setSched s _) v)) only
  · intro hsize j i hj
    have linked := spriteChain_linked Cfg.spriteCap 0 j i hj
    rw [spriteLink_eq hsize] at linked
    exact linked
  · intro x hx b f sprite low top i part high pixel hcram k hk
    have colour : composite s.cfg (refreshCaches s.cfg s.vdp) x n.toNat = top := by
      rw [composite_refreshCaches hcache, compositeOf_eq]
      change (sprite true).elim (if Shows true f then f.1 else if Shows true b then b.1 else
        (sprite false).elim (if Shows false f then f.1 else if Shows false b then b.1 else bgColour s.vdp) Prod.fst)
          Prod.fst = top
      unfold top low
      cases sprite true with
      | some q => rfl
      | none => cases sprite false <;> rfl
    have small : i < 256 := Nat.lt_of_le_of_lt (Nat.mod_le _ _) (Nat.lt_trans top.isLt (by decide))
    have hpixel : pixelOf s.cfg.bpp i (Memory.get 0 s.vdp.cram i) = pixel := by
      obtain ⟨hpos, hmax⟩ := Cfg.bpp_bounds hready.1
      unfold pixel
      match s.cfg.bpp, hpos, hmax with
      | 1, _, _ => exact pixelOf_one small _
      | 2, _, _ | 3, _, _ | 4, _, _ => rfl
    refine (get_putPixels length n.toNat hfb (Nat.zero_le x) (by omega) hk).trans ?_
    rw [colour, palEntry_eq_pixelOf hready.1 palette (Nat.mod_lt _ hcram), cram]
    exact congrArg (List.getD · k 0) hpixel
  · intro j hj
    exact get_putPixels_out length n.toNat (by rw [Cfg.fbW, Nat.add_zero]; omega)

end Sys2Proof.Machine

/-! ### The sound glue's operations (44_sound_timer_dac.md), each as what it makes of the sound group's fields. -/

namespace Sys2Proof.Machine

/-! The rows in a ready state (log 14). -/

section
variable {s : State} (h : s.ready) (x : Ctx) (v : Byte)
include h

theorem exec_fmregOther (b : BitVec 1) (r : Byte) : exec (.fmregOther x b r v) s =
    .next (reply .none (setSnd s (soundRegWrite s.cfg (ctxNow x s) b r v s.snd))) :=
  guarded_ready h fun y => reply .none (setSnd y (soundRegWrite y.cfg (ctxNow x y) b r v y.snd))

theorem exec_modeValue : exec (.modeValue x v) s =
    .next (reply .none (setSnd s (modeWrite s.cfg (ctxNow x s) (fmReg s.snd 0 s.cfg.regMode) v s.snd))) :=
  guarded_ready h fun y => reply .none (setSnd y (modeWrite y.cfg (ctxNow x y) (fmReg y.snd 0 y.cfg.regMode) v y.snd))

theorem exec_dacenValue : exec (.dacenValue x v) s =
    .next (reply .none (setSnd s (dacEnable s.cfg (ctxNow x s) v s.snd))) :=
  guarded_ready h fun y => reply .none (setSnd y (dacEnable y.cfg (ctxNow x y) v y.snd))

theorem exec_dacdataValue : exec (.dacdataValue x v) s =
    .next (reply .none (setSnd s (dacData s.cfg (ctxNow x s) v s.snd))) :=
  guarded_ready h fun y => reply .none (setSnd y (dacData y.cfg (ctxNow x y) v y.snd))

theorem exec_psgValue : exec (.psgValue x v) s = .next (reply .none (psgPortWrite (ctxNow x s) v s)) :=
  guarded_ready h fun y => reply .none (psgPortWrite (ctxNow x y) v y)

omit x v

theorem exec_timertick : exec .timertick s = .next (reply .none (timerStep s)) :=
  guarded_ready h fun y => reply .none (timerStep y)

theorem exec_finalize : exec .finalize s = .next (finalizeOp s) := guarded_ready h finalizeOp

theorem exec_soundframestart : exec .soundframestart s = .next (reply .none (setSnd s (soundFrameStart s.snd))) :=
  guarded_ready h fun y => reply .none (setSnd y (soundFrameStart y.snd))

theorem exec_timerrebase (us : Nat) :
    exec (.timerrebase us) s = .next (reply .none (setSnd s (timerRebase us s.snd))) :=
  guarded_ready h fun y => reply .none (setSnd y (timerRebase us y.snd))

end

/-- The row of a named register of bank 0 is the row of any register at that number, in every state (log 14). -/
theorem exec_fmregNamed (s : State) (x : Ctx) (v : Byte) {i : Instr} {r : Byte}
    (hi : i = .fmregMode x v ∧ r = s.cfg.regMode ∨ i = .fmregDacdata x v ∧ r = s.cfg.regDacdata ∨
      i = .fmregDacen x v ∧ r = s.cfg.regDacen ∨ i = .fmregTaHi x v ∧ r = 0x24 ∨
      i = .fmregTaLo x v ∧ r = 0x25 ∨ i = .fmregTb x v ∧ r = 0x26) : exec i s = exec (.fmregOther x 0 r v) s := by
  obtain ⟨rfl, rfl⟩ | ⟨rfl, rfl⟩ | ⟨rfl, rfl⟩ | ⟨rfl, rfl⟩ | ⟨rfl, rfl⟩ | ⟨rfl, rfl⟩ := hi <;> rfl

/-! The ports of the FM block (30_encoding.md R150, 40_bus_operations.md R215): the address's two low bits. -/

section
variable {n : Nat} (a : BitVec n)

theorem getLsbD_fmPort_zero : (field a 0 2).getLsbD 0 = a.getLsbD 0 := by simp [field]

theorem bit_fmPort_one : bit (field a 0 2) 1 = bit a 1 := by simp [bit, field]

end

theorem busWr8_fm {s : State} {a : Addr} {p : BitVec 2} (now : Nat) (v : Byte) (hr : region s.cfg s.bus a = .fm p) :
    busWr8 now a v s = fmPortWrite now p v s := by
  simp only [busWr8, hr]

theorem auxWr8_fm {s : State} {q : AuxAddr} {p : BitVec 2} (now : Nat) (v : Byte)
    (ht : auxTarget s.cfg s.bus.bank q = .fm p) : auxWr8 now q v s = fmPortWrite now p v s := by
  simp only [auxWr8, ht]

section
variable {s : State} (h : s.ready) {i : Instr} (v : Byte)
include h

/-- Every row of a byte write at an FM address is the write of the port there (log 10). -/
theorem exec_fmPort (x : Ctx) {a : Addr} (hwin : inWin s.cfg.fmWin a = true)
    (hi : i ∈ [.wr8 x a v, .wr8Fm x a v, .wr8FmAddr0 x a v, .wr8FmAddr1 x a v, .wr8FmData0 x a v, .wr8FmData1 x a v]) :
    exec i s = .next (reply .none (fmPortWrite (ctxNow x s) (field a 0 2) v s)) := by
  have write := exec_wr8 h x a v
  rw [busWr8_fm _ v (region_fmWin h.1 s.bus hwin)] at write
  simp only [List.mem_cons, List.not_mem_nil, or_false] at hi
  obtain rfl | rfl | rfl | rfl | rfl | rfl := hi <;> exact write

/-- A write of a sound port through the AUX port (30_encoding.md R166). -/
theorem exec_awrFm {q : AuxAddr} (hlo : 0x4000 ≤ q.toNat) (hhi : q.toNat ≤ 0x5FFF) (t : Nat) :
    exec (.awrFm q v t) s = .next (reply .none (fmPortWrite (nowUs s .aux t) (field q 0 2) v s)) := by
  have write := exec_auxWrite h q t v (i := .awrFm q v t) (by simp)
  rw [auxWr8_fm _ v (auxTarget_fm hlo hhi)] at write
  exact write

end

section
variable {n : Nat} {a : BitVec n} (now : Nat) (v : Byte) (s : State)

/-- An even address is the bank's address port (R422). -/
theorem fmPortWrite_select (ha : a.getLsbD 0 = false) : fmPortWrite now (field a 0 2) v s =
    setSnd s { s.snd with fmSel := Memory.put 0 s.snd.fmSel (bit a 1).toNat v } := by
  rw [fmPortWrite, soundWrite, getLsbD_fmPort_zero, ha, bit_fmPort_one, if_neg Bool.false_ne_true]

/-- An odd address is the bank's data port (R422). -/
theorem fmPortWrite_data (ha : a.getLsbD 0 = true) : fmPortWrite now (field a 0 2) v s =
    setSnd s (soundRegWrite s.cfg now (bit a 1) (Memory.get 0 s.snd.fmSel (bit a 1).toNat) v s.snd) := by
  rw [fmPortWrite, soundWrite, getLsbD_fmPort_zero, ha, bit_fmPort_one, if_pos rfl]

end

/-- Settles O20: on either bus the address's low bit says it is an address port, and the next bit its bank. -/
theorem fmAddressPortSelects : Obligations.FmAddressPortSelects := by
  intro s x a c t v hready hwf i b hi
  refine ⟨Memory.put 0 s.snd.fmSel b v, ?_, fun k => Memory.get_put _ _ hwf _ k v⟩
  obtain ⟨hwin, heven, rfl, hi⟩ | ⟨hlo, hhi, heven, rfl, rfl⟩ := hi
  · rw [exec_fmPort hready v x hwin (by obtain rfl | rfl | rfl | rfl := hi <;> simp),
      fmPortWrite_select _ v s heven]
    rfl
  · rw [exec_awrFm hready v hlo hhi, fmPortWrite_select _ v s heven]
    rfl

/-- Settles O21: on either bus a data port is the write of the register its bank has selected. -/
theorem fmDataPortLandsOnTheSelectedRegister : Obligations.FmDataPortLandsOnTheSelectedRegister := by
  intro s x a q n v hready hwin hodd
  refine ⟨⟨_, exec_fmregOther hready .., fun i hi => ?_⟩, fun hlo hhi hq => ⟨_, exec_awrFm hready v hlo hhi n, ?_⟩,
    fun i r hi => exec_fmregNamed s x v hi⟩
  · rw [exec_fmPort hready v x hwin (by obtain rfl | rfl | rfl | rfl := hi <;> simp), fmPortWrite_data _ v s hodd]
  · rw [exec_fmregOther hready, fmPortWrite_data _ v s hq]
    rfl

/-! Where a data write lands (R422). -/

/-- The shadow of register `r` of bank `b` set. -/
def shadow (b : BitVec 1) (r v : Byte) (x : Snd) : Snd :=
  { x with fm := Memory.put 0 x.fm (b.toNat * 256 + r.toNat) v }

theorem get_shadow (b : BitVec 1) (r v : Byte) (x : Snd) (h : Memory.wf 0 x.fm) (k : Nat) :
    Memory.get 0 (shadow b r v x).fm k = if k = b.toNat * 256 + r.toNat then v else Memory.get 0 x.fm k :=
  Memory.get_put _ _ h _ k v

theorem get_shadow_bank0 (r v : Byte) (x : Snd) (h : Memory.wf 0 x.fm) (k : Nat) :
    Memory.get 0 (shadow 0 r v x).fm k = if k = r.toNat then v else Memory.get 0 x.fm k := by
  simpa using get_shadow 0 r v x h k

section
variable {c : Cfg} (now : Nat) (v : Byte) (x : Snd)

theorem soundRegWrite_mode : soundRegWrite c now 0 c.regMode v x =
    forward now .fm 0 c.regMode v (modeWrite c now (fmReg x 0 c.regMode) v (shadow 0 c.regMode v x)) :=
  if_pos ⟨rfl, rfl⟩

theorem soundRegWrite_dacdata (hm : c.regDacdata ≠ c.regMode) :
    soundRegWrite c now 0 c.regDacdata v x = dacData c now v (shadow 0 c.regDacdata v x) :=
  (if_neg fun ⟨_, mode⟩ => hm mode).trans (if_pos ⟨rfl, rfl⟩)

theorem soundRegWrite_dacen (hm : c.regDacen ≠ c.regMode) (hd : c.regDacen ≠ c.regDacdata) :
    soundRegWrite c now 0 c.regDacen v x = dacEnable c now v (shadow 0 c.regDacen v x) :=
  (if_neg fun ⟨_, mode⟩ => hm mode).trans ((if_neg fun ⟨_, dacdata⟩ => hd dacdata).trans (if_pos ⟨rfl, rfl⟩))

theorem soundRegWrite_ordinary {b : BitVec 1} {r : Byte}
    (h : b = 1 ∨ r ≠ c.regMode ∧ r ≠ c.regDacdata ∧ r ≠ c.regDacen) :
    soundRegWrite c now b r v x = forward now .fm b.toNat r v (shadow b r v x) := by
  have special {k : Byte} (hk : b = 1 ∨ r ≠ k) : ¬ (b = 0 ∧ r = k) := by
    rintro ⟨rfl, rfl⟩
    exact hk.elim (by decide) (absurd rfl)
  unfold soundRegWrite
  rw [if_neg (special (h.imp_right fun ⟨mode, _, _⟩ => mode)),
    if_neg (special (h.imp_right fun ⟨_, dacdata, _⟩ => dacdata)),
    if_neg (special (h.imp_right fun ⟨_, _, dacen⟩ => dacen))]
  rfl

end

/-- Settles O22: none of the three special cases applies, and the rest of the write is the shadow and the log. -/
theorem ordinaryFmRegisterIsShadowedAndForwarded : Obligations.OrdinaryFmRegisterIsShadowedAndForwarded := by
  intro s x b r v hready hwf d now
  have time : ctxNow x s = now := by
    obtain ⟨master, stamp⟩ := x
    cases master <;> rfl
  refine ⟨time, fun hr i hi => ⟨_, ?_, get_shadow b r v s.snd hwf⟩⟩
  have row : exec i s = exec (.fmregOther x b r v) s := by
    obtain rfl | ⟨rfl, hi⟩ := hi
    · rfl
    · exact exec_fmregNamed s x v (.inr (.inr (.inr hi)))
  rw [row, exec_fmregOther hready, soundRegWrite_ordinary _ v s.snd hr, time]
  rfl

theorem busWr8_psg {s : State} {a : Addr} (now : Nat) (v : Byte) (hr : region s.cfg s.bus a = .vdp (field a 0 5))
    (hp : vdpPort (field a 0 5) = .psg) : busWr8 now a v s = psgPortWrite now v s := by
  simp only [busWr8, hr, vdpBlockWrite8, hp]

/-- Settles O25: offset 0x11 of the VDP block is the PSG port. -/
theorem psgByteIsForwarded : Obligations.PsgByteIsForwarded := by
  intro s x a v hready i hi
  have value := exec_psgValue hready x v
  obtain rfl | ⟨hwin, hpsg, hi⟩ := hi
  · exact value
  · have write := exec_wr8 hready x a v
    rw [busWr8_psg _ v (region_vdpWin hready.1 s.bus hwin) ((vdpPort_psg _).mpr hpsg)] at write
    obtain rfl | rfl | rfl := hi <;> exact write

end Sys2Proof.Machine

/-! ### The two timers (44_sound_timer_dac.md R430 to R438, R456): each timer by itself, and its flag. -/

namespace Sys2Proof.Machine

/-- A timer's flag is its own bit of the overflow byte (10_state.md R58). -/
theorem getLsbD_setOverflow (o : Byte) (t : TimerId) (on : Bool) (k : Nat) :
    (setOverflow o t on).getLsbD k = if k = timerBit t then on else o.getLsbD k := by
  have low : timerBit t < 8 := by cases t <;> decide
  have mask : (BitVec.ofNat 8 (2 ^ timerBit t)).getLsbD k = decide (k = timerBit t) := by
    rw [BitVec.getLsbD_ofNat, Nat.testBit_two_pow]
    by_cases hk : k = timerBit t
    · simp [hk, low]
    · simp [hk, Ne.symm hk]
  cases on with
  | true =>
    rw [setOverflow, if_pos rfl, BitVec.getLsbD_or, mask]
    by_cases hk : k = timerBit t <;> simp [hk]
  | false =>
    rw [setOverflow, if_neg Bool.false_ne_true, BitVec.getLsbD_and, BitVec.getLsbD_not, mask]
    by_cases hk : k = timerBit t
    · simp [hk]
    · simpa [hk] using BitVec.lt_of_getLsbD

/-! A write of the mode register (R432). -/

/-- A timer after a mode write `v` over `old`, `n` its enable bit: stopped, left alone, or started. -/
def Timer.modeWritten (now : Nat) (old v : Byte) (n period : Nat) (m : Timer) : Timer :=
  if v.getLsbD n = false then { m with run := false }
  else if old.getLsbD n = true then m
  else ⟨true, period, now + period⟩

/-- The overflow byte after the acknowledge bits of a mode write (R434). -/
def acknowledged (c : Cfg) (v o : Byte) : Byte :=
  let t1 := if v.getLsbD 4 = c.timerAckLevel then setOverflow o .a false else o
  if v.getLsbD 5 = c.timerAckLevel then setOverflow t1 .b false else t1

theorem getLsbD_acknowledged (c : Cfg) (v o : Byte) (k : Nat) : (acknowledged c v o).getLsbD k =
    if k = 1 ∧ v.getLsbD 5 = c.timerAckLevel ∨ k = 0 ∧ v.getLsbD 4 = c.timerAckLevel then false else o.getLsbD k := by
  have ack (t : TimerId) (P : Prop) [Decidable P] (o : Byte) : (if P then setOverflow o t false else o).getLsbD k =
      if k = timerBit t ∧ P then false else o.getLsbD k := by
    by_cases hP : P <;> simp [hP, getLsbD_setOverflow]
  rw [acknowledged, ack, ack, timerBit, timerBit]
  by_cases hb : k = 1 ∧ v.getLsbD 5 = c.timerAckLevel
  · rw [if_pos hb, if_pos (.inl hb)]
  · rw [if_neg hb]
    simp only [hb, false_or]

theorem modeTimer_eq (c : Cfg) (now : Nat) (old v : Byte) (t : TimerId) (x : Snd) : modeTimer c now old v t x =
    timerSet x t ((timerGet x t).modeWritten now old v (timerBit t) (timerPeriod c x t)) := by
  have same : timerSet x t (timerGet x t) = x := by cases t <;> rfl
  unfold modeTimer Timer.modeWritten
  cases v.getLsbD (timerBit t) <;> cases old.getLsbD (timerBit t) <;> simp [same]

theorem modeWrite_eq (c : Cfg) (now : Nat) (old v : Byte) (x : Snd) : modeWrite c now old v x =
    { x with
      tmA := x.tmA.modeWritten now old v 0 (timerPeriod c x .a)
      tmB := x.tmB.modeWritten now old v 1 (timerPeriod c x .b)
      tover := acknowledged c v x.tover } := by
  rw [modeWrite, modeTimer_eq, modeTimer_eq]
  rfl

/-- The reference period of timer A, from its two value registers (R430, R436). -/
theorem timerPeriodRef_a (x : Snd) : timerPeriodRef x .a =
    18 * (1024 - ((Memory.get 0 x.fm 0x24).toNat * 4 + (Memory.get 0 x.fm 0x25).toNat % 4)) := by
  rw [timerPeriodRef, timerAValue, BitVec.toNat_append, ← Nat.shiftLeft_add_eq_or_of_lt (BitVec.isLt _),
    Nat.shiftLeft_eq]
  simp [fmReg, field]

theorem timerPeriodRef_b (x : Snd) : timerPeriodRef x .b = 288 * (256 - (Memory.get 0 x.fm 0x26).toNat) := by
  simp [timerPeriodRef, timerBValue, fmReg]

/-- Settles O23: a mode write changes the two timers and the overflow byte, and reads the FM registers for the periods
only; the register's row is the same after the shadow, and the log. -/
theorem modeWriteStartsAndStopsTimers : Obligations.ModeWriteStartsAndStopsTimers := by
  intro s x v hready now old periodA periodB timer
  have old_eq : fmReg s.snd 0 s.cfg.regMode = old := by simp only [fmReg, Nat.zero_mul, Nat.zero_add, old]
  have period_a : ∀ y : Snd, timerPeriod s.cfg y .a = periodA y.fm := by
    intro y
    simp only [timerPeriod, timerPeriodRef_a, periodA]
    cases s.cfg.timerPeriod <;> rfl
  have period_b : ∀ y : Snd, timerPeriod s.cfg y .b = periodB y.fm := by
    intro y
    simp only [timerPeriod, timerPeriodRef_b, periodB]
    cases s.cfg.timerPeriod <;> rfl
  refine ⟨acknowledged s.cfg v s.snd.tover, ?_, fun hwf => ⟨(shadow 0 s.cfg.regMode v s.snd).fm, ?_, fun k => ?_⟩,
    ?_, ?_, fun k hk => ?_⟩
  · rw [exec_modeValue hready, old_eq, modeWrite_eq, period_a, period_b]
    rfl
  · rw [exec_fmregNamed s x v (.inl ⟨rfl, rfl⟩), exec_fmregOther hready, soundRegWrite_mode, old_eq,
      modeWrite_eq, period_a, period_b]
    rfl
  · exact get_shadow_bank0 _ _ _ hwf k
  · rw [getLsbD_acknowledged]
    simp [and_comm]
  · rw [getLsbD_acknowledged]
    simp [and_comm]
  · rw [getLsbD_acknowledged, if_neg (by omega)]

/-! A tick (R438). -/

/-- A timer that fires at time `now`. -/
def Timer.due (now : Nat) (m : Timer) : Bool := m.run && m.deadlineUs ≤ now

theorem Timer.due_iff (now : Nat) (m : Timer) : m.due now = true ↔ m.run = true ∧ m.deadlineUs ≤ now := by
  simp [Timer.due]

/-- A timer after a tick: the deadline of one that fires moves by its period, or past the time. -/
def Timer.ticked (now : Nat) (m : Timer) : Timer :=
  if m.due now = true then
    { m with deadlineUs := if m.deadlineUs + m.reloadUs ≤ now then now + m.reloadUs else m.deadlineUs + m.reloadUs }
  else m

/-- The overflow byte after the tick of timer `t`, which is `m`. -/
def flagTicked (now : Nat) (t : TimerId) (m : Timer) (o : Byte) : Byte :=
  if m.due now = true then setOverflow o t true else o

theorem getLsbD_flagTicked (now : Nat) (t : TimerId) (m : Timer) (o : Byte) (k : Nat) :
    (flagTicked now t m o).getLsbD k = if k = timerBit t ∧ m.due now = true then true else o.getLsbD k := by
  by_cases h : m.due now = true <;> simp [flagTicked, h, getLsbD_setOverflow]

theorem tickTimer_eq (now : Nat) (t : TimerId) (x : Snd) : tickTimer now t x =
    { timerSet x t ((timerGet x t).ticked now) with tover := flagTicked now t (timerGet x t) x.tover } := by
  unfold tickTimer Timer.ticked flagTicked Timer.due
  dsimp only
  split
  · rfl
  · cases t <;> rfl

theorem timerTick_eq (now : Nat) (x : Snd) : timerTick now x =
    { x with
      tmA := x.tmA.ticked now
      tmB := x.tmB.ticked now
      tover := flagTicked now .b x.tmB (flagTicked now .a x.tmA x.tover) } := by
  rw [timerTick, tickTimer_eq, tickTimer_eq]
  rfl

/-! The next frame's time (R456). -/

/-- The deadline moves back by the frame, and natural subtraction stops it at 0. -/
theorem rebase_eq (us : Nat) (m : Timer) : rebase us m = { m with deadlineUs := m.deadlineUs - us } := by
  unfold rebase
  split
  · rfl
  · next h => rw [Nat.sub_eq_zero_of_le (Nat.not_lt.mp h)]

/-- Settles O52: each timer ticks by itself and sets its own flag; the two other operations are their rules. -/
theorem soundGlueTime : Obligations.SoundGlueTime := by
  refine ⟨fun s i hready hi => ?_, fun s us hready => ⟨⟨_, _, exec_timerrebase hready us, ?_⟩,
    exec_soundframestart hready⟩⟩
  · intro now due
    have row : exec i s = .next (reply .none (setSnd s (timerTick now s.snd))) := by
      obtain rfl | rfl := hi
      · exact exec_timertick hready
      · exact exec_timerstep hready
    rw [timerTick_eq] at row
    refine ⟨_, _, _, row, fun m y hm => ?_, ?_, ?_, fun k hk => ?_⟩
    · obtain rfl : y = m.ticked now := by obtain ⟨rfl, rfl⟩ | ⟨rfl, rfl⟩ := hm <;> rfl
      have fires : due m → m.ticked now = { m with deadlineUs :=
          if m.deadlineUs + m.reloadUs ≤ now then now + m.reloadUs else m.deadlineUs + m.reloadUs } :=
        fun hdue => if_pos ((m.due_iff now).mpr hdue)
      refine ⟨fun hdue => if_neg (mt (m.due_iff now).mp hdue), fun hdue hlater => ?_, fun hdue hpast => ?_⟩
      · rw [fires hdue, if_neg (Nat.not_le.mpr hlater)]
      · rw [fires hdue, if_pos hpast]
    · rw [getLsbD_flagTicked, getLsbD_flagTicked]
      simp [timerBit, Timer.due_iff, due, or_comm]
    · rw [getLsbD_flagTicked, getLsbD_flagTicked]
      simp [timerBit, Timer.due_iff, due, or_comm]
    · rw [getLsbD_flagTicked, getLsbD_flagTicked]
      simp [timerBit, show k ≠ 0 by omega, show k ≠ 1 by omega]
  · rintro m y (⟨rfl, rfl⟩ | ⟨rfl, rfl⟩) <;> rw [rebase_eq] <;> exact ⟨rfl, rfl, rfl⟩

end Sys2Proof.Machine

/-! ### The DAC capture path and the frame's end (44_sound_timer_dac.md R442 to R456). -/

namespace Sys2Proof.Machine

section
variable {c : Cfg} (now : Nat) (v : Byte) {x : Snd}

/-- In a good sound group a capture is R446: up to the clamped time the buffer is held, the entry there takes the
sample; a time before the newest entry overwrites that. -/
theorem capture_captured (h : Snd.inv c x) : Captured c now v x (capture c now v x) := by
  obtain ⟨-, -, -, ⟨lo, -⟩, buf, -⟩ := h
  unfold Captured capture
  dsimp only
  split
  · next later =>
    refine ⟨rfl, by dsimp only; omega, fun j => ?_⟩
    rw [Memory.get_put _ _ (Memory.wf_fill _ _ _ _ _ buf), Memory.get_fill _ _ _ _ _ _ buf]
    have skipped : (x.dacIdx + 1).toNat ≤ j ∧
        j < (x.dacIdx + 1).toNat + (min now (c.dacBufLen - 1) - (x.dacIdx + 1).toNat) ↔
        x.dacIdx < j ∧ j < min now (c.dacBufLen - 1) := by omega
    simp only [skipped, Int.natCast_inj]
  · next earlier =>
    refine ⟨rfl, by dsimp only; omega, fun j => ?_⟩
    have newest : j = x.dacIdx.toNat ↔ (j : Int) = x.dacIdx := by omega
    have skipped : ¬ (x.dacIdx < j ∧ j < min now (c.dacBufLen - 1)) := by omega
    rw [Memory.get_put _ _ buf, if_neg skipped]
    simp only [newest]

theorem capture_fm (m : Mem) : capture c now v { x with fm := m } = { capture c now v x with fm := m } := by
  unfold capture
  dsimp only
  split <;> rfl

theorem dacData_fm (m : Mem) : dacData c now v { x with fm := m } = { dacData c now v x with fm := m } := by
  unfold dacData
  split
  · exact capture_fm now v m
  · rfl

theorem dacEnable_fm (m : Mem) : dacEnable c now v { x with fm := m } = { dacEnable c now v x with fm := m } := by
  unfold dacEnable
  rw [capture_fm]
  split
  · rfl
  · split <;> rfl

theorem capture_synthLog : (capture c now v x).synthLog = x.synthLog := by
  unfold capture
  dsimp only
  split <;> rfl

theorem dacData_synthLog : (dacData c now v x).synthLog = x.synthLog := by
  unfold dacData
  split
  · exact capture_synthLog now v
  · rfl

theorem dacEnable_synthLog : (dacEnable c now v x).synthLog = x.synthLog := by
  unfold dacEnable
  split
  · rfl
  · split
    · exact capture_synthLog now 0x80
    · rfl

end

/-- Settles O24: the first half is the three branches of the two operations; in the second the shadow is apart from
what they read and write. -/
theorem dacCapture : Obligations.DacCapture := by
  refine ⟨fun s x v hready hinv => ?_, fun s x v hready hwf hmd hme hde i j r hi => ?_⟩
  · have data := exec_dacdataValue hready x v
    have enable := exec_dacenValue hready x v
    unfold dacData at data
    unfold dacEnable at enable
    refine ⟨fun hoff => ?_, fun hon => ?_, fun hv => ?_, fun hv hoff => ?_, fun hv hon => ?_⟩
    · rw [data, hoff]
      rfl
    · rw [hon] at data
      exact ⟨_, data, capture_captured _ v hinv⟩
    · rw [enable, hv]
      rfl
    · rw [enable, hv, hoff]
      rfl
    · rw [hv, hon] at enable
      exact ⟨_, enable, capture_captured _ 0x80 hinv⟩
  · have rows : ∃ y : Snd, exec j s = .next (reply .none (setSnd s y)) ∧ y.synthLog = s.snd.synthLog ∧
        exec i s = .next (reply .none (setSnd s { y with fm := (shadow 0 r v s.snd).fm })) := by
      obtain ⟨rfl, rfl, rfl⟩ | ⟨rfl, rfl, rfl⟩ := hi
      · refine ⟨_, exec_dacdataValue hready x v, dacData_synthLog .., ?_⟩
        rw [exec_fmregNamed s x v (.inr (.inl ⟨rfl, rfl⟩)), exec_fmregOther hready,
          soundRegWrite_dacdata _ v _ hmd.symm, shadow, dacData_fm]
      · refine ⟨_, exec_dacenValue hready x v, dacEnable_synthLog .., ?_⟩
        rw [exec_fmregNamed s x v (.inr (.inr (.inl ⟨rfl, rfl⟩))), exec_fmregOther hready,
          soundRegWrite_dacen _ v _ hme.symm hde.symm, shadow, dacEnable_fm]
    obtain ⟨y, value, log, register⟩ := rows
    exact ⟨_, _, value, log, register, get_shadow_bank0 r v s.snd hwf⟩

/-! The frame's end (R452, R454). -/

/-- The buffer held to its end: what lies past the newest entry is the held sample. -/
theorem get_holdToEnd {c : Cfg} {x : Snd} (h : Snd.inv c x) {j : Nat} (hj : j < c.dacBufLen) :
    Memory.get 0x80 (holdToEnd c x).dacBuf j = if x.dacIdx < j then x.dacLast else Memory.get 0x80 x.dacBuf j := by
  obtain ⟨-, -, -, ⟨lo, -⟩, buf, -⟩ := h
  have past : (x.dacIdx + 1).toNat ≤ j ∧ j < (x.dacIdx + 1).toNat + (c.dacBufLen - (x.dacIdx + 1).toNat) ↔
      x.dacIdx < j := by omega
  exact (Memory.get_fill _ _ _ _ _ _ buf).trans (by simp only [past])

/-- The place of output sample `k` of `N`, stretched over the entries that cover the frame, is in the buffer. -/
theorem stretched_lt {c : Cfg} (h : c.wf = true) (us : Nat) {k N : Nat} (hk : k < N) :
    k * coverUs c us / N < c.dacBufLen := by
  have len := Cfg.dacBufLen_pos h
  have some_entry : 0 < coverUs c us := by unfold coverUs; omega
  have in_buffer : coverUs c us ≤ c.dacBufLen := Nat.min_le_left ..
  refine Nat.div_lt_of_lt_mul ?_
  calc k * coverUs c us < N * coverUs c us := Nat.mul_lt_mul_of_pos_right hk some_entry
    _ ≤ N * c.dacBufLen := Nat.mul_le_mul_left N in_buffer

/-- The frame's time is MAIN's odometer in microseconds (00_scope.md R21). -/
theorem frameUs_eq (s : State) :
    frameUs s = s.sched.odo.main * 1000000 / s.cfg.clockHz.main.get s.sched.std := rfl

/-- What the end of the sound frame changes, field by field. -/
theorem finalizeStep_fields (s : State) : (finalizeStep s).2 =
    { s with
      snd := { s.snd with
        dacBuf := (holdToEnd s.cfg s.snd).dacBuf
        synthLog := []
        tmA := rebase (frameUs s) s.snd.tmA
        tmB := rebase (frameUs s) s.snd.tmB }
      host := { s.host with mute := (sampleCell (Config.flagDraw .mute) s.host.mute).2 }
      synths := s.synths + 1 } :=
  finalizeStep_state s

/-- The frame left. Named, so that the end of a frame is compared with it as one term and not field by field. -/
def frameLeft (s : State) : State := setSched s { s.sched with inFrame := false }

theorem frameEnd_eq (s : State) : frameEnd s =
    reply (.done (frameLeft (finalizeStep s).2).sched.fb (frameLeft (finalizeStep s).2).sched.palsnap
        (finalizeStep s).1)
      (frameLeft (finalizeStep s).2) := rfl

/-- Settles O55: the block reads the held buffer at entries it has; the rest of the end is the sound group's fields. -/
theorem frameEndHandsOver : Obligations.FrameEndHandsOver := by
  intro s hready hinv us U N mute held pcm later
  have block : (finalizeStep s).1 = pcm := by
    refine List.map_congr_left fun k hk => List.map_congr_left fun ch _ => ?_
    rw [get_holdToEnd hinv (stretched_lt hready.1 _ (List.mem_range.mp hk))]
    rfl
  have fields := finalizeStep_fields s
  rw [rebase_eq, rebase_eq, frameUs_eq] at fields
  refine ⟨_, _, exec_finalize hready, ?_, fun j hj => get_holdToEnd hinv hj, ?_⟩
  · rw [finalizeOp, block, fields]
    rfl
  · rw [exec_frameend hready, frameEnd_eq, finalizeOp, block, fields]
    rfl

end Sys2Proof.Machine

/-! ### The host's operations (45_cartridge_host.md R472 to R486): the patches, the cartridge, the mailbox. -/

namespace Sys2Proof.Machine

/-! The patches as a finite map: what is listed, and an entry set and removed. -/

section
variable {α : Type} {m : Sparse α} {a : Nat} {v : α}

theorem Memory.lookup_eq_none (h : ∀ w, (a, w) ∉ m) : lookup m a = none :=
  Option.eq_none_iff_forall_not_mem.mpr fun w hw => h w (mem_of_lookup hw)

theorem Memory.lookup_of_mem (hm : m.Pairwise fun x y => x.1 < y.1) (h : (a, v) ∈ m) : lookup m a = some v := by
  induction m with
  | nil => cases h
  | cons x r ih =>
    obtain ⟨first, rest⟩ := List.pairwise_cons.mp hm
    obtain rfl | hr := List.mem_cons.mp h
    · exact if_pos rfl
    · exact (if_neg (Nat.ne_of_gt (first _ hr))).trans (ih rest hr)

theorem Memory.lookup_insert_self (m : Sparse α) (a : Nat) (v : α) : lookup (insert m a v) a = some v := by
  induction m with
  | nil => exact if_pos rfl
  | cons x r ih =>
    simp only [insert]
    split
    · exact if_pos rfl
    · split
      · exact if_pos rfl
      · next hne => exact (if_neg hne).trans ih

/-- A new entry removed again leaves the map as it was. -/
theorem Memory.erase_insert (h : lookup m a = none) (v : α) : erase (insert m a v) a = m := by
  induction m with
  | nil => exact if_pos rfl
  | cons x r ih =>
    simp only [lookup] at h
    split at h
    · cases h
    · next hne =>
      simp only [insert]
      split
      · exact if_pos rfl
      · exact (if_neg hne).trans (congrArg _ (ih h))

/-- A new entry leaves the entries at other indices. -/
theorem Memory.mem_insert_ne (h : lookup m a = none) {c : Nat × α} (hc : c.1 ≠ a) : c ∈ insert m a v ↔ c ∈ m := by
  constructor
  · intro hin
    obtain rfl | hold := mem_insert hin
    · exact absurd rfl hc
    · exact hold
  · intro hold
    rw [← erase_insert h v] at hold
    exact (erase_sublist ..).subset hold

theorem Memory.erase_eq_filter (hm : m.Pairwise fun x y => x.1 < y.1) : erase m a = m.filter fun p => p.1 ≠ a := by
  induction m with
  | nil => rfl
  | cons x r ih =>
    obtain ⟨first, rest⟩ := List.pairwise_cons.mp hm
    simp only [erase]
    split
    · next heq =>
      have later : ∀ p ∈ r, p.1 ≠ a := fun p hp => heq ▸ Nat.ne_of_gt (first p hp)
      rw [List.filter_cons_of_neg (by simp [heq]), List.filter_eq_self.mpr (by simpa using later)]
    · next hne => rw [List.filter_cons_of_pos (by simpa using Ne.symm hne), ih rest]

end

/-! A word of the image. -/

theorem hiByte_wordOf (hi lo : Byte) : hiByte (wordOf hi lo) = hi :=
  (field_append_hi hi lo 8 8 (Nat.le_refl 8)).trans (field_self hi)

theorem loByte_wordOf (hi lo : Byte) : loByte (wordOf hi lo) = lo :=
  (field_append_lo hi lo 0 8 (Nat.le_refl 8)).trans (field_self lo)

section
variable {m : Mem} (h : Memory.wf 0 m)
include h

theorem wf_romPutWord (k : Nat) (w : Half) : Memory.wf 0 (romPutWord k w m) :=
  Memory.wf_put _ _ (Memory.wf_put _ _ h _ _) _ _

theorem get_romPutWord (k : Nat) (w : Half) (o : Nat) : Memory.get 0 (romPutWord k w m) o =
    if o = k then hiByte w else if o = k + 1 then loByte w else Memory.get 0 m o := by
  rw [romPutWord, Memory.get_put _ _ (Memory.wf_put _ _ h _ _), Memory.get_put _ _ h]
  split
  · next hlo => rw [if_neg (by omega)]
  · rfl

/-- The bytes kept of a word, put back over any other word. -/
theorem romPutWord_restore (k : Nat) (w : Half) :
    romPutWord k (wordOf (Memory.get 0 m k) (Memory.get 0 m (k + 1))) (romPutWord k w m) = m := by
  have written := wf_romPutWord h k w
  refine Memory.eq_of_get (wf_romPutWord written _ _) h fun o => ?_
  rw [get_romPutWord written, get_romPutWord h]
  split
  · next hk => rw [hk, hiByte_wordOf]
  · split
    · next hk => rw [hk, loByte_wordOf]
    · rfl

end

/-! One code (R482), by whether its word has a patch and lies in the image; a list of codes. -/

/-- The bus with the word at `k` of the image patched, its bytes kept. -/
def Bus.patched (k : Nat) (v : Half) (b : Bus) : Bus :=
  { b with
    rom := romPutWord k v b.rom
    patches := Memory.insert b.patches k (wordOf (Memory.get 0 b.rom k) (Memory.get 0 b.rom (k + 1))) }

section
variable {a : Addr} {k : Nat} {b : Bus} (hk : a.toNat - a.toNat % 2 = k) (v : Half)
include hk

theorem patchOne_patched {q : Half} (h : Memory.lookup b.patches k = some q) : patchOne a v b =
    (false, { b with rom := romPutWord k q b.rom, patches := Memory.erase b.patches k }) := by
  have word : a.toNat / 2 * 2 = k := by omega
  simp only [patchOne, word, h]

theorem patchOne_new (h : Memory.lookup b.patches k = none) (hin : k + 1 < b.romLen) :
    patchOne a v b = (false, b.patched k v) := by
  have word : a.toNat / 2 * 2 = k := by omega
  simp only [patchOne, word, h, if_pos hin, Bus.patched]

/-- A code on a word just patched gives the bus back as it was. -/
theorem patchOne_again (hrom : Memory.wf 0 b.rom) (h : Memory.lookup b.patches k = none) (w : Half) :
    patchOne a v (b.patched k w) = (false, b) := by
  rw [patchOne_patched hk v (Memory.lookup_insert_self ..), Bus.patched, romPutWord_restore hrom,
    Memory.erase_insert h]

theorem patchOne_outside (h : Memory.lookup b.patches k = none) (hout : b.romLen ≤ k + 1) :
    patchOne a v b = (true, b) := by
  have word : a.toNat / 2 * 2 = k := by omega
  simp only [patchOne, word, h, if_neg (Nat.not_lt.mpr hout)]

end

/-- The codes skipped before a list only add to the count. -/
theorem patchAll_count (l : List (Addr × Half)) (n : Nat) (b : Bus) :
    patchAll l n b = (n + (patchAll l 0 b).1, (patchAll l 0 b).2) := by
  induction l generalizing n b with
  | nil => rfl
  | cons p l ih =>
    simp only [patchAll]
    rw [ih, ih (if (patchOne p.1 p.2 b).1 then 0 + 1 else 0)]
    split
    · rw [Nat.zero_add, Nat.add_assoc]
    · rw [Nat.zero_add]

/-- The first code of a list, then the rest on the machine it leaves: the skips add. -/
theorem hostPatch_cons (s : State) (a : Addr) (v : Half) (l : List (Addr × Half)) : hostPatch ((a, v) :: l) s =
    reply (.skipped ((patchAll [(a, v)] 0 s.bus).1 + (patchAll l 0 (patchAll [(a, v)] 0 s.bus).2).1))
      (hostPatch l (hostPatch [(a, v)] s)) := by
  have rest := patchAll_count l (patchAll [(a, v)] 0 s.bus).1 (patchAll [(a, v)] 0 s.bus).2
  have whole : patchAll ((a, v) :: l) 0 s.bus =
      patchAll l (patchAll [(a, v)] 0 s.bus).1 (patchAll [(a, v)] 0 s.bus).2 := rfl
  rw [hostPatch, whole, rest]
  rfl

section
variable {s : State} (h : s.ready) (hf : s.sched.inFrame = false)
include h hf

theorem exec_hostPatch (l : List (Addr × Half)) : exec (.hostPatch l) s = .next (hostPatch l s) :=
  guardedHost_ready h hf (hostPatch l)

theorem exec_hostPatch_one {a : Addr} {v : Half} {skip : Bool} {x : Bus} (hone : patchOne a v s.bus = (skip, x)) :
    exec (.hostPatch [(a, v)]) s = .next { s with bus := x, resp := .skipped (if skip then 1 else 0) } := by
  rw [exec_hostPatch h hf, hostPatch, patchAll, hone]
  rfl

end

/-- Settles O59: a word without a patch in the image is written and its bytes kept, and these go back over it; a word
with a patch takes back what the map holds of it; each code of a list acts on what the codes before it left. -/
theorem patchToggles : Obligations.PatchToggles := by
  intro s a b v w l hready hframe hrom hrise k one
  refine ⟨fun hno hin => ?_, fun q hq => ?_, fun hno hout => ?_, ?_⟩
  · have free := Memory.lookup_eq_none hno
    have first := exec_hostPatch_one hready hframe (patchOne_new rfl v free hin)
    refine ⟨_, _, first, rfl, Memory.mem_of_lookup (Memory.lookup_insert_self ..),
      fun n q hn => Memory.mem_insert_ne free hn, get_romPutWord hrom k v, fun hb => ?_⟩
    exact exec_hostPatch_one (s := { s with bus := s.bus.patched k v, resp := .skipped 0 }) hready hframe
      (patchOne_again hb w hrom free v)
  · have back := exec_hostPatch_one hready hframe (patchOne_patched rfl v (Memory.lookup_of_mem hrise hq))
    rw [Memory.erase_eq_filter hrise] at back
    exact ⟨_, back, get_romPutWord hrom k q⟩
  · exact exec_hostPatch_one hready hframe (patchOne_outside rfl v (Memory.lookup_eq_none hno) hout)
  · have rest := exec_hostPatch (s := hostPatch [(a, v)] s) hready hframe l
    refine ⟨_, _, _, _, exec_hostPatch hready hframe _, rfl, rest, rfl, ?_⟩
    rw [exec_hostPatch hready hframe, hostPatch_cons]
    rfl

/-! The cartridge (R472 to R476, R480): the save RAM of an image, and the reset after it. -/

/-- The header describes save RAM (R474, R475): the magic bytes, a start below the end, and the end, made odd, in the
cartridge window. -/
def describesRam (c : Cfg) (g : Image) : Prop :=
  imageByte g 0x1B0 = 0x52 ∧ imageByte g 0x1B1 = 0x41 ∧ (be32 g 0x1B4).toNat < (be32 g 0x1B8).toNat ∧
    (be32 g 0x1B8).toNat - (be32 g 0x1B8).toNat % 2 + 1 ≤ c.cartEnd

section
variable {c : Cfg} {g : Image}

theorem saveRamOf_of_not_describesRam (h : ¬ describesRam c g) : saveRamOf c g = .absent := by
  unfold saveRamOf
  dsimp only
  split
  · rfl
  · next magic =>
    split
    · rfl
    · split
      · rfl
      · next range fit =>
        obtain ⟨hi, lo⟩ := not_or.mp magic
        unfold oddUp at fit
        exact absurd ⟨Decidable.not_not.mp hi, Decidable.not_not.mp lo, by omega, by omega⟩ h

/-- The descriptor the header gives (R475, R476); its two ends are 24-bit addresses, as `CART_END` is one. -/
theorem saveRamOf_of_describesRam (hc : c.wf = true) (h : describesRam c g) :
    (saveRamOf c g).present = true ∧
    (saveRamOf c g).start.toNat = (be32 g 0x1B4).toNat - (be32 g 0x1B4).toNat % 2 ∧
    (saveRamOf c g).stop.toNat = (be32 g 0x1B8).toNat - (be32 g 0x1B8).toNat % 2 + 1 ∧
    (saveRamOf c g).bytes = [] := by
  have map := Cfg.mapWf_of_wf hc
  simp only [Cfg.mapWf, Bool.and_eq_true, decide_eq_true_eq] at map
  obtain ⟨⟨window, -⟩, -⟩ := map
  obtain ⟨hi, lo, range, fit⟩ := h
  have odd : ¬ c.cartEnd < oddUp (be32 g 0x1B8).toNat := by unfold oddUp; omega
  rw [saveRamOf, if_neg (by simp [hi, lo]), if_neg (by omega), if_neg odd]
  simp only [oddUp, BitVec.toNat_ofNat]
  exact ⟨trivial, by omega, by omega, trivial⟩

end

section
variable {s : State} (h : s.ready) (hf : s.sched.inFrame = false)
include h hf

theorem exec_hostLoad (g : Image) : exec (.hostLoad g) s = .next (hostLoad g s) :=
  guardedHost_ready h hf (hostLoad g)

theorem exec_hostUnplug : exec .hostUnplug s = .next (hostUnplug s) := guardedHost_ready h hf hostUnplug

end

theorem loadable_iff {c : Cfg} {g : Image} :
    loadable c g = true ↔ 1 ≤ g.len ∧ c.minImageSize ≤ g.len ∧ g.len ≤ c.cartEnd + 1 := by
  simp [loadable, and_assoc]

/-- Settles O58: the size test, then the descriptor by whether the header describes save RAM; the reset keeps the image
and the descriptor, and works `active` out again. -/
theorem loadAndUnplug : Obligations.LoadAndUnplug := by
  intro s g hready hframe reset be from_ to_ ram
  have load := exec_hostLoad hready hframe g
  refine ⟨fun o ho => if_pos ho, fun hsize => ?_, fun hpos hmin hmax => ?_, exec_hostUnplug hready hframe⟩
  · have wrong : ¬ loadable s.cfg g = true := by rw [loadable_iff]; omega
    rw [load, hostLoad, if_neg wrong]
    rfl
  · rw [hostLoad, if_pos (loadable_iff.mpr ⟨hpos, hmin, hmax⟩)] at load
    refine ⟨sramAfterReset g.len (saveRamOf s.cfg g), load, ?_⟩
    by_cases hram : describesRam s.cfg g
    · obtain ⟨present, start, stop, bytes⟩ := saveRamOf_of_describesRam hready.1 hram
      refine ⟨iff_of_true present hram, fun hno => absurd hram hno, fun _ => ⟨start, stop, bytes, rfl, ?_⟩⟩
      simp [sramAfterReset, present]
    · have absent := saveRamOf_of_not_describesRam hram
      rw [absent]
      exact ⟨iff_of_false nofun hram, fun _ => rfl, fun hyes => absurd hyes hram⟩

/-- Settles O60: each of the four is the host's write of its location (R486). -/
theorem mailboxWrites : Obligations.MailboxWrites :=
  ⟨fun _ => rfl, fun _ w b hready => ⟨exec_hostRow hready (.pad w), exec_hostRow hready (.mute b),
    exec_hostRow hready (.cancel b), exec_hostRow hready (.pal b)⟩⟩

end Sys2Proof.Machine

/-! ### Who raises an interrupt (60_exceptions.md R552, R553): the two latches rise at step (3) and at the v-blank
boundary only. -/

namespace Sys2Proof.Machine

/-- Neither interrupt latch is set in `t` unless it was in `s`. -/
structure State.NoRaise (s t : State) : Prop where
  irqH : t.sched.irqH = true → s.sched.irqH = true
  irqV : t.sched.irqV = true → s.sched.irqV = true

theorem State.NoRaise.refl (s : State) : State.NoRaise s s := ⟨id, id⟩

theorem State.NoRaise.trans {s t u : State} (h : State.NoRaise s t) (k : State.NoRaise t u) : State.NoRaise s u :=
  ⟨fun x => h.irqH (k.irqH x), fun x => h.irqV (k.irqV x)⟩

theorem State.NoRaise.of_sched {s t : State} (h : t.sched = s.sched) : State.NoRaise s t :=
  ⟨fun x => h ▸ x, fun x => h ▸ x⟩

/-- The response is no latch. -/
theorem State.NoRaise.reply {s t : State} (h : State.NoRaise s t) (r : Resp) : State.NoRaise s (reply r t) :=
  ⟨h.irqH, h.irqV⟩

/-- A bus transaction or a port write reaches the devices, and the latches are none of theirs. -/
theorem OnlyDevices.noRaise {s t : State} (h : OnlyDevices s t) : State.NoRaise s t := .of_sched h.sched

theorem OnlyVdp.noRaise {s t : State} (h : OnlyVdp s t) : State.NoRaise s t := h.devices.noRaise

/-- An acknowledge clears a latch or leaves both (R556). -/
theorem intAck_noRaise (n : Nat) (s : State) : State.NoRaise s (intAck n s).2 := by
  unfold intAck
  split
  · exact ⟨id, nofun⟩
  · split
    · exact ⟨nofun, id⟩
    · exact .refl s

/-! The engines' calls and the arbiter (41_frame_scheduler.md R280 to R284). -/

section
variable (d : Device) (s : State)

theorem deviceOp_noRaise (t : Nat) (o : EngOp) : State.NoRaise s (deviceOp d t o s) := by
  cases d with
  | main =>
    cases o with
    | rd8 a => exact (busRd8_only a s).noRaise.reply _
    | rd16 a => exact (busRd16_only a s).noRaise.reply _
    | wr8 a v => exact (busWr8_only _ a v s).noRaise.reply _
    | wr16 a v => exact (busWr16_only _ a v s).noRaise.reply _
    | ack n => exact (intAck_noRaise _ s).reply _
    | ard8 | awr8 => exact ⟨id, id⟩
  | aux =>
    cases o with
    | ard8 a => exact (auxRd8_only a s).noRaise.reply _
    | awr8 a v => exact (auxWr8_only _ a v s).noRaise.reply _
    | rd8 | rd16 | wr8 | wr16 | ack => exact ⟨id, id⟩

theorem engineEvent_noRaise (last : Nat) (e : Event) : State.NoRaise s (engineEvent d last e s) := by
  cases e with
  | op t o =>
    rw [engineEvent, engineOp_eq]
    split
    · exact ⟨id, id⟩
    · exact proceed_keeps (P := State.NoRaise s) (deviceOp_noRaise d s t o) fun h => ⟨h.irqH, h.irqV⟩
  | look => cases d <;> exact ⟨id, id⟩
  | host w => exact ⟨id, id⟩

theorem checkReturn_noRaise (b c last : Nat) : State.NoRaise s (checkReturn d b c last s) := by
  unfold checkReturn
  split
  · exact ⟨id, id⟩
  · split <;> exact ⟨id, id⟩

theorem execCall_noRaise (b : Nat) : State.NoRaise s (execCall d b s).2 :=
  have body : State.NoRaise s (callBody d b s).2.2 :=
    callBody_keeps (P := State.NoRaise s) (fun _ _ _ h => h.trans (engineEvent_noRaise ..)) ⟨id, id⟩
  proceed_keeps (P := State.NoRaise s) body fun h => h.trans (checkReturn_noRaise ..)

theorem executeOp_noRaise (b : Nat) : State.NoRaise s (executeOp d b s) :=
  proceed_keeps (P := State.NoRaise s) (execCall_noRaise d s b) fun h => h.reply _

theorem runTo_noRaise (T : Nat) : State.NoRaise s (runTo d T s) :=
  runTo_keeps (P := State.NoRaise s) ⟨id, id⟩ (fun _ _ h => h.trans (execCall_noRaise ..))
    fun _ _ h => ⟨h.irqH, h.irqV⟩

end

theorem runBothTo_noRaise (T : Device → Nat) (s : State) : State.NoRaise s (runBothTo T s) :=
  proceed_keeps (P := State.NoRaise s) (runTo_noRaise ..) fun h => h.trans (runTo_noRaise ..)

theorem slices_noRaise (s : State) : State.NoRaise s (slices s) := by
  have entered (k : Slice) (hb : Bool) (u : State) : State.NoRaise u (enterSlice k hb u) := ⟨id, id⟩
  have hblank : State.NoRaise s (hblankSlice s) := (entered ..).trans (runBothTo_noRaise ..)
  have display (u : State) : State.NoRaise u (displaySlice (lineEnd s) u) :=
    (entered ..).trans (runBothTo_noRaise ..)
  rw [slices_eq]
  exact proceed_keeps (P := State.NoRaise s)
    (proceed_keeps (P := State.NoRaise s) hblank fun h => h.trans (display _)) fun h => ⟨h.irqH, h.irqV⟩

theorem finalizeStep_noRaise (s : State) : State.NoRaise s (finalizeStep s).2 :=
  .of_sched (by rw [finalizeStep_state, setSnd_sched]; rfl)

theorem frameEnd_noRaise (s : State) : State.NoRaise s (frameEnd s) := by
  constructor <;> simp

/-! The system reset (10_state.md R62) clears both latches, and with it LOAD and UNPLUG. -/

theorem systemReset_noRaise (s u : State) : State.NoRaise s (systemReset u) := ⟨nofun, nofun⟩

theorem hostLoad_noRaise (g : Image) (s : State) : State.NoRaise s (hostLoad g s) := by
  unfold hostLoad
  split
  · exact (systemReset_noRaise s _).reply _
  · exact (State.NoRaise.refl s).reply _

/-! The operations. -/

section
variable {s t : State} {f : State → State}

theorem State.NoRaise.of_guarded (h : guarded s f = .next t) (hf : ∀ x, State.NoRaise x (f x)) :
    State.NoRaise s t := by
  obtain ⟨-, rfl⟩ := guarded_next.mp h
  exact hf s

theorem State.NoRaise.of_guardedHost (h : guardedHost s f = .next t) (hf : ∀ x, State.NoRaise x (f x)) :
    State.NoRaise s t := by
  obtain ⟨-, -, rfl⟩ := guardedHost_next.mp h
  exact hf s

end

/-- Settles O9: by the operation. The rows are grouped by the function that gives them their meaning. -/
theorem onlyTheSchedulerRaises : Obligations.OnlyTheSchedulerRaises := by
  intro i s t hframe hline hstep hboundary h
  suffices k : State.NoRaise s t from ⟨k.irqH, k.irqV⟩
  unfold exec at h
  cases i with
  | runframe => exact absurd rfl hframe
  | linestep => exact absurd rfl hline
  | hstep => exact absurd rfl hstep
  | vblankboundary => exact absurd rfl hboundary
  | rd8 _ a | rd8Sram _ a | rd8Rom _ a | rd8Cartopen _ a | rd8Zram _ a | rd8Fm _ a | rd8Banksel _ a | rd8Io _ a
  | rd8Sramctl _ a | rd8Vdp _ a | rd8Ram _ a | rd8Open _ a | rd8Vdpdata _ a | rd8Vdpctrl _ a | rd8Psg _ a
  | rd8Vdpnone _ a | rd8FmAny _ a => exact .of_guarded h fun x => (busRd8_only a x).noRaise.reply _
  | wr8 _ a v | wr8Sram _ a v | wr8Rom _ a v | wr8Cartopen _ a v | wr8Zram _ a v | wr8Fm _ a v | wr8Banksel _ a v
  | wr8Io _ a v | wr8Sramctl _ a v | wr8Vdp _ a v | wr8Ram _ a v | wr8Open _ a v | wr8Vdpdata _ a v
  | wr8Vdpctrl _ a v | wr8Psg _ a v | wr8Vdpnone _ a v | wr8FmAddr0 _ a v | wr8FmData0 _ a v | wr8FmAddr1 _ a v
  | wr8FmData1 _ a v => exact .of_guarded h fun x => (busWr8_only _ a v x).noRaise.reply _
  | rd16 _ a | rd16Vdpdata _ a | rd16Vdpctrl _ a =>
    exact .of_guarded h fun x => (busRd16_only a x).noRaise.reply _
  | wr16 _ a v | wr16Vdpdata _ a v | wr16Vdpctrl _ a v =>
    exact .of_guarded h fun x => (busWr16_only _ a v x).noRaise.reply _
  | ardZram a | ardFm a | ardBanksel a | ardVdpwin a | ardBankwin a | ardNone a =>
    exact .of_guarded h fun x => (auxRd8_only a x).noRaise.reply _
  | awrZram a v | awrFm a v | awrBanksel a v | awrVdpwin a v | awrBankwin a v | awrNone a v =>
    exact .of_guarded h fun x => (auxWr8_only _ a v x).noRaise.reply _
  | ioVersion k | ioData0 k | ioData1 k | ioData2 k | ioCtrl0 k | ioCtrl1 k | ioCtrl2 k | ioSer0 k | ioSer1 k
  | ioSer2 k | ioSer3 k | ioSer4 k | ioSer5 k | ioSer6 k | ioSer7 k | ioSer8 k | ioEven _ k =>
    cases k <;> exact .of_guarded h fun _ => ⟨id, id⟩
  | sramctlValue | bankselValue | fmregMode | fmregDacdata | fmregDacen | fmregTaHi | fmregTaLo | fmregTb | fmregOther
  | modeValue | dacenValue | dacdataValue | psgValue => exact .of_guarded h fun _ => ⟨id, id⟩
  | regset | cmd1 | cmd2 => exact .of_guarded h fun x => (ctrlPortWrite16_only _ x).noRaise.reply _
  | command w | modeVramRd w | modeVramWr w | modeCramWr w | modeVsramRd w | modeVsramWr w | modeCramRd w
  | modeInvalid w | dmaflag w => exact .of_guarded h fun x => (vdpCommand_only w x).noRaise.reply _
  | dmaBus hi => exact .of_guarded h fun x => (dmaBus_only hi x).noRaise.reply _
  | dmastart => exact .of_guarded h fun x => (dmaStart_only x).noRaise.reply _
  | dmaFill | dmaCopy | vdataWr | vdataRd | vstat => exact .of_guarded h fun _ => ⟨id, id⟩
  | execute d b => exact .of_guarded h (executeOp_noRaise d · b)
  | ackV | ackH | ackSpurious => exact .of_guarded h fun x => (intAck_noRaise _ x).reply _
  | slices => exact .of_guarded h fun x => (slices_noRaise x).reply _
  | runto d T => exact .of_guarded h fun x => (runTo_noRaise d x T).reply _
  | framestart | padtimeout | padsample | timerstep | timertick | snapshot | drawline
  | soundframestart | timerrebase => exact .of_guarded h fun _ => ⟨id, id⟩
  | finalize => exact .of_guarded h fun x => (finalizeStep_noRaise x).reply _
  | frameend => exact .of_guarded h frameEnd_noRaise
  | hostLoad g => exact .of_guardedHost h (hostLoad_noRaise g)
  | hostUnplug | hostReset => exact .of_guardedHost h fun x => (systemReset_noRaise x _).reply _
  | hostPatch => exact .of_guardedHost h fun _ => ⟨id, id⟩
  | hostSetpad | hostSetmute | hostSetcancel | hostSetpal => exact .of_guarded h fun _ => ⟨id, id⟩

end Sys2Proof.Machine

/-! ### Refusals (60_exceptions.md R570, 45_cartridge_host.md R470): every operation passes one of the two guards. -/

namespace Sys2Proof.Machine

/-- An operation is guarded, or guarded as a host operation. -/
theorem exec_guards (i : Instr) (s : State) :
    (∃ f, exec i s = guarded s f) ∨ ∃ f, exec i s = guardedHost s f := by
  unfold exec
  cases i with
  | hostLoad | hostUnplug | hostPatch | hostReset => exact .inr ⟨_, rfl⟩
  | _ => exact .inl ⟨_, rfl⟩

/-! Both guards refuse what is not ready alike: by the configuration first, then by the fault record. -/

theorem exec_illFormedCfg {s : State} (h : s.cfg.wf = false) (i : Instr) : exec i s = .refused .illFormedCfg := by
  obtain ⟨f, hf⟩ | ⟨f, hf⟩ := exec_guards i s
  · simp [hf, guarded, h]
  · simp [hf, guardedHost, h]

theorem exec_afterFault {s : State} (h : s.cfg.wf = true) (hs : s.fault ≠ none) (i : Instr) :
    exec i s = .refused .afterFault := by
  obtain ⟨x, hx⟩ := Option.ne_none_iff_exists'.mp hs
  obtain ⟨f, hf⟩ | ⟨f, hf⟩ := exec_guards i s
  · simp [hf, guarded, h, hx]
  · simp [hf, guardedHost, h, hx]

theorem guardedHost_insideFrame {s : State} (h : s.ready) (hs : s.sched.inFrame = true) (f : State → State) :
    guardedHost s f = .refused .insideFrame := by
  simp [guardedHost, h.1, h.2, hs]

/-- Settles O10: every operation passes a guard; the four of R470 pass the one that asks for a frame as well. -/
theorem refusals : Obligations.Refusals := by
  refine ⟨fun i s hwf hs => exec_afterFault hwf hs i, fun i s hwf => exec_illFormedCfg hwf i, ?_⟩
  intro i s hready hs hi
  unfold exec
  obtain rfl | rfl | ⟨g, rfl⟩ | ⟨l, rfl⟩ := hi <;> exact guardedHost_insideFrame hready hs _

end Sys2Proof.Machine

/-! ### The level and the acknowledge (60_exceptions.md R554, R556). -/

namespace Sys2Proof.Machine

/-! What an acknowledge of level `n` answers: the vertical interrupt goes before the horizontal one. -/

theorem intAck_vertical {n : Nat} {s : State} (hn : n = s.cfg.vintLevel) (hv : s.sched.irqV = true)
    (hen : vintEn s.vdp = true) : intAck n s = (vectorOf n,
      setVdp (setSched s { s.sched with irqV := false }) { s.vdp with stF := false }) := by
  simp [intAck, hn, hv, hen]

theorem intAck_horizontal {n : Nat} {s : State} (hn : n = s.cfg.hintLevel) (hh : s.sched.irqH = true)
    (hen : hintEn s.vdp = true) (hv : ¬ (n = s.cfg.vintLevel ∧ s.sched.irqV = true ∧ vintEn s.vdp = true)) :
    intAck n s = (vectorOf n, setSched s { s.sched with irqH := false }) := by
  rw [intAck, if_neg (by simpa [and_assoc] using hv)]
  simp [hn, hh, hen]

theorem intAck_spurious {n : Nat} {s : State}
    (hv : ¬ (n = s.cfg.vintLevel ∧ s.sched.irqV = true ∧ vintEn s.vdp = true))
    (hh : ¬ (n = s.cfg.hintLevel ∧ s.sched.irqH = true ∧ hintEn s.vdp = true)) : intAck n s = (24, s) := by
  rw [intAck, if_neg (by simpa [and_assoc] using hv), if_neg (by simpa [and_assoc] using hh)]

/-- The three rows of an acknowledge, each with its level (log 24). -/
theorem exec_ack {i : Instr} {n : Nat} {s : State} (h : s.ready)
    (hi : i = .ackV ∧ n = s.cfg.vintLevel ∨ i = .ackH ∧ n = s.cfg.hintLevel ∨
      ∃ l : BitVec 3, i = .ackSpurious l ∧ n = l.toNat) : exec i s = .next (replyAck (intAck n s)) := by
  obtain ⟨rfl, rfl⟩ | ⟨rfl, rfl⟩ | ⟨l, rfl, rfl⟩ := hi
  · exact guarded_ready h fun y => replyAck (intAck y.cfg.vintLevel y)
  · exact guarded_ready h fun y => replyAck (intAck y.cfg.hintLevel y)
  · exact exec_ackSpurious h l

theorem ipl_eq (s : State) : ipl s =
    if s.sched.irqV = true ∧ vintEn s.vdp = true then s.cfg.vintLevel
    else if s.sched.irqH = true ∧ hintEn s.vdp = true then s.cfg.hintLevel else 0 := by
  simp [ipl]

theorem runEvents_look {s : State} (hs : s.fault = none) (last : Nat) :
    runEvents .main [.look] last s = (last, noteResp (reply (.level (ipl s)) s)) := by
  rw [runEvents]
  exact if_pos hs

/-- A recorded call of MAIN that looks once and returns within its budget. -/
theorem executeOp_look {s : State} {b c : Nat} {rest : List EngCall} (hs : s.fault = none)
    (hrec : s.engines.main = ⟨[.look], c⟩ :: rest) (hc : c ≤ b) : executeOp .main b s =
      { s with
        engines := { s.engines with main := rest }
        calls := s.calls + 1
        engResps := [.level (ipl s)]
        resp := .consumed c } := by
  have recorded : s.engines.get .main = ⟨[.look], c⟩ :: rest := hrec
  have looked := runEvents_look (s := takeCall .main s) hs 0
  refine (executeOp_returns recorded ?_ looked (Nat.zero_le c) hc).trans ?_
  · exact hs
  · rw [takeCall_of_recorded recorded]
    rfl

/-- Settles O44: the level is `ipl`, which a call that looks keeps as its response; an acknowledge by whether the
interrupt of its level is pending and enabled. -/
theorem interruptAcknowledge : Obligations.InterruptAcknowledge := by
  intro s hready v h level
  have hlevel : ipl s = level := ipl_eq s
  refine ⟨fun b c rest hrec hc => ⟨hlevel, ?_⟩, fun i n hi => ?_⟩
  · rw [exec_execute hready, executeOp_look hready.2 hrec hc, hlevel]
  · rw [exec_ack hready hi]
    refine ⟨fun hn ⟨hv, hen⟩ => ?_, fun hn ⟨hh, hen⟩ hno => ?_, fun hnov hnoh => ?_⟩
    · rw [intAck_vertical hn hv hen]
      rfl
    · rw [intAck_horizontal hn hh hen hno]
      rfl
    · rw [intAck_spurious hnov hnoh]
      rfl

end Sys2Proof.Machine

/-! ### The transport as a whole (log 3): every operation's row reads the operation back. -/

namespace Sys2Proof.Laws.RowReader

/-- The row of every operation, in the order of the constructors, reads the operation back. -/
theorem statement_of_instr (i : Instr) : Statement i :=
  i.casesOn rd8 rd16 wr8 wr16
    rd8Sram wr8Sram rd8Rom wr8Rom rd8Cartopen wr8Cartopen rd8Zram wr8Zram rd8Fm wr8Fm rd8Banksel wr8Banksel
    rd8Io wr8Io rd8Sramctl wr8Sramctl rd8Vdp wr8Vdp rd8Ram wr8Ram rd8Open wr8Open
    rd16Vdpdata wr16Vdpdata rd16Vdpctrl wr16Vdpctrl rd8Vdpdata wr8Vdpdata rd8Vdpctrl wr8Vdpctrl
    rd8Psg wr8Psg rd8Vdpnone wr8Vdpnone
    wr8FmAddr0 wr8FmData0 wr8FmAddr1 wr8FmData1 rd8FmAny
    fmregMode fmregDacdata fmregDacen fmregTaHi fmregTaLo fmregTb fmregOther
    modeValue dacenValue dacdataValue psgValue
    ioVersion ioData0 ioData1 ioData2 ioCtrl0 ioCtrl1 ioCtrl2
    ioSer0 ioSer1 ioSer2 ioSer3 ioSer4 ioSer5 ioSer6 ioSer7 ioSer8 ioEven
    sramctlValue bankselValue
    regset cmd1 cmd2
    command modeVramRd modeVramWr modeCramWr modeVsramRd modeVsramWr modeCramRd modeInvalid dmaflag
    dmaBus dmaFill dmaCopy dmastart
    vdataWr vdataRd vstat
    ardZram awrZram ardFm awrFm ardBanksel awrBanksel ardVdpwin awrVdpwin ardBankwin awrBankwin ardNone awrNone
    execute ackV ackH ackSpurious
    runframe framestart linestep padtimeout padsample timerstep hstep slices snapshot vblankboundary runto frameend
    drawline timertick finalize soundframestart timerrebase
    hostLoad hostUnplug hostPatch hostReset hostSetpad hostSetmute hostSetcancel hostSetpal

end Sys2Proof.Laws.RowReader

namespace Sys2Proof

open Machine

/-- Settles O1: the row of each operation reads it back, and so the decoder does. -/
theorem decodeReadsBackEncode : Obligations.DecodeReadsBackEncode :=
  fun i rest h => decode_encode (Laws.RowReader.statement_of_instr i) h rest

end Sys2Proof

/-! ### What the decoder leaves (log 3): the end of what it is given, after at least the row's number. -/

namespace Sys2Proof

open Machine

/-- What a codec leaves is the end of what it is given. -/
def Codec.LeavesSuffix {α : Type} (k : Codec α) : Prop := ∀ r, ∀ p ∈ k.get r, p.2 <:+ r

/-- What a row's reader leaves is the end of what it is given. -/
def Reader.LeavesSuffix (f : Reader) : Prop := ∀ w r, ∀ p ∈ f w r, p.2 <:+ r

theorem takeWord_suffix (n : Nat) : ∀ (acc : BitVec 32) (r : List Byte), ∀ p ∈ takeWord n acc r, p.2 <:+ r := by
  induction n with
  | zero =>
    intro acc r p h
    cases h
    exact List.suffix_rfl
  | succ n ih =>
    intro acc r p h
    cases r with
    | nil => cases h
    | cons b r => exact (ih _ r p h).trans (List.suffix_cons b r)

section
variable {α β : Type} {k : Codec α} {l : Codec β}

theorem reads_leavesSuffix (hk : k.LeavesSuffix) (f : BitVec 32 → α → Instr) : (reads k f).LeavesSuffix :=
  fun _ r => Option.forall_mem_map.mpr (hk r)

theorem Codec.LeavesSuffix.map (hk : k.LeavesSuffix) (f : α → β) (g : β → α) : (k.map f g).LeavesSuffix :=
  fun r => Option.forall_mem_map.mpr (hk r)

theorem Codec.LeavesSuffix.filterMap (hk : k.LeavesSuffix) (f : α → Option β) (g : β → α) :
    (k.filterMap f g).LeavesSuffix := by
  intro r p h
  obtain ⟨q, hget, hval⟩ := Option.mem_bind_iff.mp h
  obtain ⟨_, -, rfl⟩ := Option.mem_map.mp hval
  exact hk r q hget

theorem Codec.LeavesSuffix.pair (hk : k.LeavesSuffix) (hl : l.LeavesSuffix) : (k.pair l).LeavesSuffix := by
  intro r p h
  obtain ⟨q, hfst, hrest⟩ := Option.mem_bind_iff.mp h
  obtain ⟨q', hsnd, rfl⟩ := Option.mem_map.mp hrest
  exact (hl q.2 q' hsnd).trans (hk r q hfst)

theorem takeMany_suffix (hk : k.LeavesSuffix) (n : Nat) : ∀ r, ∀ p ∈ takeMany k n r, p.2 <:+ r := by
  induction n with
  | zero =>
    intro r p h
    cases h
    exact List.suffix_rfl
  | succ n ih =>
    intro r p h
    obtain ⟨q, hfst, hrest⟩ := Option.mem_bind_iff.mp h
    obtain ⟨q', hmany, rfl⟩ := Option.mem_map.mp hrest
    exact (ih q.2 q' hmany).trans (hk r q hfst)

end

theorem Codec.unit_leavesSuffix : Codec.unit.LeavesSuffix := by
  intro r p h
  cases h
  exact List.suffix_rfl

theorem Codec.word_leavesSuffix (n : Nat) : (Codec.word n).LeavesSuffix := takeWord_suffix n 0

theorem Codec.bits_leavesSuffix (n w : Nat) : (Codec.bits n w).LeavesSuffix := (Codec.word_leavesSuffix n).map _ _

theorem Codec.byte_leavesSuffix : Codec.byte.LeavesSuffix := Codec.bits_leavesSuffix 1 8

theorem Codec.half_leavesSuffix : Codec.half.LeavesSuffix := Codec.bits_leavesSuffix 2 16

theorem Codec.nat_leavesSuffix : Codec.nat.LeavesSuffix := (Codec.word_leavesSuffix 4).map _ _

theorem Codec.int_leavesSuffix : Codec.int.LeavesSuffix := (Codec.word_leavesSuffix 4).map _ _

theorem Codec.device_leavesSuffix : Codec.device.LeavesSuffix := Codec.byte_leavesSuffix.filterMap _ _

theorem Codec.bit_leavesSuffix : Codec.bit.LeavesSuffix := Codec.byte_leavesSuffix.filterMap _ _

theorem Codec.ctx_leavesSuffix : Codec.ctx.LeavesSuffix :=
  ((Codec.byte_leavesSuffix.filterMap _ _).pair Codec.nat_leavesSuffix).map _ _

theorem Codec.access_leavesSuffix : Codec.access.LeavesSuffix :=
  (Codec.bit_leavesSuffix.pair Codec.byte_leavesSuffix).filterMap _ _

theorem Codec.list_leavesSuffix {α : Type} {k : Codec α} (hk : k.LeavesSuffix) : (Codec.list k).LeavesSuffix := by
  intro r p h
  obtain ⟨q, hlen, hmany⟩ := Option.mem_bind_iff.mp h
  exact (takeMany_suffix hk q.1 q.2 p hmany).trans (Codec.nat_leavesSuffix r q hlen)

theorem Codec.image_leavesSuffix : Codec.image.LeavesSuffix :=
  (Codec.nat_leavesSuffix.pair
    (Codec.list_leavesSuffix (Codec.nat_leavesSuffix.pair Codec.byte_leavesSuffix))).map _ _

theorem Codec.codes_leavesSuffix : Codec.codes.LeavesSuffix :=
  Codec.list_leavesSuffix ((Codec.bits_leavesSuffix 3 24).pair Codec.half_leavesSuffix)

/-- Every row of the table is read through a codec. -/
theorem readerTable_leavesSuffix : ∀ f ∈ readerTable, f.LeavesSuffix := by
  have byteCtx := Codec.byte_leavesSuffix.pair Codec.ctx_leavesSuffix
  have halfCtx := Codec.half_leavesSuffix.pair Codec.ctx_leavesSuffix
  simp only [readerTable, readersBus, readersRegion, readersPort, readersSound, readersIo, readersCtrl, readersAux,
    readersEngine, List.forall_mem_append, List.forall_mem_cons, List.not_mem_nil, false_implies, implies_true,
    and_self, reads_leavesSuffix, Codec.LeavesSuffix.pair, byteCtx, halfCtx, Codec.unit_leavesSuffix,
    Codec.word_leavesSuffix, Codec.bits_leavesSuffix, Codec.byte_leavesSuffix, Codec.nat_leavesSuffix,
    Codec.int_leavesSuffix, Codec.device_leavesSuffix, Codec.bit_leavesSuffix, Codec.ctx_leavesSuffix,
    Codec.access_leavesSuffix, Codec.image_leavesSuffix, Codec.codes_leavesSuffix]

/-- What a row accepts is its word, then its operands. -/
theorem decodeRow_ok {n : Nat} {f : Reader} {bs rest : List Byte} {i : Instr}
    (h : decodeRow n f bs = .ok (i, rest)) :
    ∃ w r, takeWord (rowBytes n) 0 bs = some (w, r) ∧ f w r = some (i, rest) := by
  unfold decodeRow at h
  split at h
  · cases h
  · next w r hword =>
    split at h
    · split at h
      · cases h
      · next j r' hread =>
        split at h
        · obtain ⟨rfl, rfl⟩ := Prod.mk.inj (Except.ok.inj h)
          exact ⟨w, r, hword, hread⟩
        · cases h
    · cases h

/-- What the decoder accepts begins with the number of a row that accepts what follows. -/
theorem decode_ok {bs rest : List Byte} {i : Instr} (h : decode bs = .ok (i, rest)) :
    ∃ b r f, bs = b :: r ∧ f ∈ readerTable ∧ decodeRow b.toNat f r = .ok (i, rest) := by
  cases bs with
  | nil => cases h
  | cons b r =>
    simp only [decode] at h
    split at h
    · cases h
    · next f hf => exact ⟨b, r, f, rfl, List.mem_of_getElem? hf, h⟩

/-- What the decoder leaves is the end of what follows the row's number. -/
theorem decode_suffix {bs rest : List Byte} {i : Instr} (h : decode bs = .ok (i, rest)) :
    ∃ b r, bs = b :: r ∧ rest <:+ r := by
  obtain ⟨b, r, f, rfl, hf, hrow⟩ := decode_ok h
  obtain ⟨w, r₁, hword, hread⟩ := decodeRow_ok hrow
  exact ⟨b, r, rfl, (readerTable_leavesSuffix f hf w r₁ (i, rest) hread).trans (takeWord_suffix _ 0 r (w, r₁) hword)⟩

/-- Settles O2: the decoder tests well-formedness last, and it leaves the end of what follows the row's number. -/
theorem decodedOperationsAreWellFormed : Obligations.DecodedOperationsAreWellFormed := by
  intro bs rest i h
  obtain ⟨b, r, rfl, hrest⟩ := decode_suffix h
  exact ⟨wf_of_decode h, Nat.lt_succ_of_le hrest.length_le⟩

end Sys2Proof
